-- ==== Sys2Proof/Word.lean ====
section
/-! DEFINITION. The machine word of 00_scope.md R8 and R10, its signed and unsigned values, the
wrap to 16 bits, and the pixel grid of R36. -/

namespace Sys2Proof

/-- R10: a word is a 16-bit bit vector. -/
abbrev Word := BitVec 16

/-- R10: the signed two's-complement value of a word, in -32768..32767. -/
abbrev sval (w : Word) : Int := w.toInt

/-- R10: the unsigned value of a word, in 0..65535. -/
abbrev uval (w : Word) : Nat := w.toNat

/-- R10: the word whose unsigned value is `n mod 2^16`. -/
abbrev wrap16 (n : Int) : Word := BitVec.ofInt 16 n

/-- R36: a 64 x 64 grid of booleans, indexed `[x][y]`. -/
abbrev Grid := Vector (Vector Bool 64) 64

/-- R38: a grid with every pixel false. -/
def blankGrid : Grid := Vector.replicate 64 (Vector.replicate 64 false)

end Sys2Proof
end

