-- ==== Sys2Proof/Config.lean ====
section
/-! DEFINITION. The implementation parameters that 00_scope.md R9 leaves open, with the spec's
defaults, and the one free value of the model. -/

namespace Sys2Proof

/-- R9, D3: what an unrecognised instruction does. -/
inductive UnknownOpPolicy where
  /-- the default: a no-op -/
  | nop
  /-- raise `ILLEGAL_INSTRUCTION` -/
  | fault
  deriving DecidableEq, Repr

/-- R9, R146, D14: how a value written to output register 6 is read. -/
inductive ScreenOpMode where
  /-- the one normative value: equality with the five literals of R144 -/
  | enum
  /-- the open alternative: independent flags -/
  | flags
  deriving DecidableEq, Repr

/-- R9: the parameters "the model takes as an argument". They are fixed for one machine: no step
writes them (log 2). -/
structure Params where
  /-- `UNKNOWN_OP_POLICY` (D3) -/
  unknownOpPolicy : UnknownOpPolicy
  /-- `SCREEN_OP_MODE` (D14) -/
  screenOpMode : ScreenOpMode
  /-- `CYCLE_COUNTER_WIDTH` (D17): `none` is unbounded -/
  cycleCounterWidth : Option Nat
  /-- `MAX_PROGRAM_LEN` (D18): at most 2^26 -/
  maxProgramLen : Nat
  deriving DecidableEq, Repr

/-- The defaults of R9. DESIGN CHOICE (unsafe): `MAX_PROGRAM_LEN` has no default in the spec, the
model takes its bound 2^26 (log 12). -/
def Params.default : Params where
  unknownOpPolicy := .nop
  screenOpMode := .enum
  cycleCounterWidth := none
  maxProgramLen := 67108864

/-- U5: the free value of a display grid ("`screen` and `screenbuffer` `any value`"), one for each
draw. It has no body, so nothing can be proved of a value of it (log 7). -/
opaque Config.freeGrid : Nat → Grid

end Sys2Proof
end

