-- ==== Sys2Proof/Syntax.lean ====
section
/-! DEFINITION. The instructions: one constructor for each row of spec/opcode_table.json (30_encoding.md
R77, R79, R84), the text record of R70, and an entry of the program store. -/

namespace Sys2Proof

/-- R76: the decoded instruction `{ op, arg }`. Each constructor is one `op`. Its argument is the
`arg : Option Nat` of R76, which both classes keep (R85, R86). The constructors stand in the order of
the opcode map R79. -/
inductive Instr where
  /-- LA, class REQ, R120: load `a` from cache slot or input -/
  | la (arg : Option Nat)
  /-- LB, class REQ, R121: load `b` from cache slot or input -/
  | lb (arg : Option Nat)
  /-- LAL, class REQ, R123: load low-byte immediate into `a` -/
  | lal (arg : Option Nat)
  /-- LBL, class REQ, R124: load low-byte immediate into `b` -/
  | lbl (arg : Option Nat)
  /-- LAH, class REQ, R125: OR high-byte immediate into `a` -/
  | lah (arg : Option Nat)
  /-- LBH, class REQ, R126: OR high-byte immediate into `b` -/
  | lbh (arg : Option Nat)
  /-- SVA, class REQ, R140: store `a` to cache slot or output register -/
  | sva (arg : Option Nat)
  /-- STP, class IGN, R160: stop -/
  | stp (arg : Option Nat)
  /-- ADD, class IGN, R170: `a + b` -/
  | add (arg : Option Nat)
  /-- SUB, class IGN, R171: `a - b` -/
  | sub (arg : Option Nat)
  /-- AND, class IGN, R172: `a & b` -/
  | and (arg : Option Nat)
  /-- OR, class IGN, R173: `a | b` -/
  | or (arg : Option Nat)
  /-- XOR, class IGN, R174: `a ^ b` -/
  | xor (arg : Option Nat)
  /-- SUP, class REQ, R175: shift `a` up -/
  | sup (arg : Option Nat)
  /-- SDN, class REQ, R176: shift `a` down, arithmetic -/
  | sdn (arg : Option Nat)
  /-- MUL, class IGN, R177: `a * b`, low 16 bits -/
  | mul (arg : Option Nat)
  /-- INB, class IGN, R178: increment `b` -/
  | inb (arg : Option Nat)
  /-- RW, class IGN, R200: write the window -/
  | rw (arg : Option Nat)
  /-- RR, class IGN, R202: read the window -/
  | rr (arg : Option Nat)
  /-- RC, class IGN, R204: repoint the window -/
  | rc (arg : Option Nat)
  /-- JMP, class REQ, R220: jump -/
  | jmp (arg : Option Nat)
  /-- JE, class REQ, R221: jump if equal -/
  | je (arg : Option Nat)
  /-- JNE, class REQ, R222: jump if not equal -/
  | jne (arg : Option Nat)
  /-- JG, class REQ, R223: jump if greater -/
  | jg (arg : Option Nat)
  /-- JL, class REQ, R224: jump if less -/
  | jl (arg : Option Nat)
  /-- JGE, class REQ, R225: jump if greater or equal -/
  | jge (arg : Option Nat)
  /-- JLE, class REQ, R226: jump if less or equal -/
  | jle (arg : Option Nat)
  /-- RESERVED27, class IGN, R84: reserved opcode 27 -/
  | reserved27 (arg : Option Nat)
  /-- RESERVED28, class IGN, R84: reserved opcode 28 -/
  | reserved28 (arg : Option Nat)
  /-- RESERVED29, class IGN, R84: reserved opcode 29 -/
  | reserved29 (arg : Option Nat)
  /-- UNKNOWN, class IGN, R106: any unrecognised mnemonic -/
  | unknown (arg : Option Nat)
  /-- NOP, class IGN, R106: the empty line -/
  | nop (arg : Option Nat)
  deriving DecidableEq, Repr

/-- R76: the argument of the decoded instruction. -/
def Instr.arg : Instr → Option Nat
  | .la arg | .lb arg | .lal arg | .lbl arg
  | .lah arg | .lbh arg | .sva arg | .stp arg
  | .add arg | .sub arg | .and arg | .or arg
  | .xor arg | .sup arg | .sdn arg | .mul arg
  | .inb arg | .rw arg | .rr arg | .rc arg
  | .jmp arg | .je arg | .jne arg | .jg arg
  | .jl arg | .jge arg | .jle arg | .reserved27 arg
  | .reserved28 arg | .reserved29 arg | .unknown arg | .nop arg => arg

/-- R70: the record `Instruction = { name: string, arg: optional int }` that a text line parses to. -/
structure TextInstruction where
  /-- the first token, case preserved -/
  name : String
  /-- the argument, absent when the line has one token -/
  arg : Option Nat
  deriving DecidableEq, Repr

/-- R13, R73: the terminator sentinel, an empty name and no argument. -/
def TextInstruction.sentinel : TextInstruction := { name := "", arg := none }

/-- One element of the program store: the record of a text line (R70, R73, the normative level) or
one W32 word of a hardware program store (R71). DESIGN CHOICE (safe): one store may hold both (log 1). -/
inductive ProgramEntry where
  /-- the record of a text line -/
  | text (line : TextInstruction)
  /-- a 32-bit instruction word -/
  | word (w : BitVec 32)
  deriving DecidableEq, Repr

/-- R101: what `step()` returns when there is no next instruction. -/
def ProgramEntry.sentinel : ProgramEntry := .text TextInstruction.sentinel

/-- R82, D18: why the transcriber refuses a program. -/
inductive TranscribeError where
  /-- the argument on this line (counting from 0) does not fit in 26 bits (R82). Safe. -/
  | argumentTooLarge (line : Nat)
  /-- the program is longer than `MAX_PROGRAM_LEN` (D18). Safe. -/
  | programTooLong
  deriving DecidableEq, Repr

end Sys2Proof
end

