-- ==== Sys2Proof/WellFormed.lean ====
section
/-! DEFINITION. What the encodings admit: an argument of 26 bits in a W32 word (R71, R82), parameters
within R9 and a text program the transcriber accepts. Execution needs none of these: at the text level
every natural number is an argument (R74). -/

namespace Sys2Proof

/-- R71: an argument that the 26-bit field `ARG` can hold. -/
abbrev argFits (arg : Option Nat) : Prop := ∀ n ∈ arg, n < 67108864

/-- R71, R82: the instruction has a W32 word. -/
abbrev Instr.wf (i : Instr) : Prop := argFits i.arg

/-- R9, D18: `MAX_PROGRAM_LEN` is at most 2^26. -/
abbrev Params.wf (p : Params) : Prop := p.maxProgramLen ≤ 67108864

/-- R82, D18: a text program that the transcriber accepts. -/
abbrev programFits (p : Params) (lines : List TextInstruction) : Prop :=
  lines.length ≤ p.maxProgramLen ∧ ∀ l ∈ lines, argFits l.arg

end Sys2Proof
end

