-- ==== Sys2Proof/Decode.lean ====
section
/-! DEFINITION. Decoding, total on every word and every line (30_encoding.md R70 to R93): the opcode
map, the W32 word and its encoder, the text level (`parse`, `format`, program text), the mapping of
names to opcodes, the transcription of text to words, and `is_input`. Nothing is rejected at decode
time: reserved words and unknown names decode as unknown instructions (R84); only the transcriber
refuses, by name (R82). -/

namespace Sys2Proof

/-! ### The opcode map -/

/-- R79: the number of each decoded opcode. -/
def Instr.opcode : Instr → BitVec 5
  | .la _ => 0#5
  | .lb _ => 1#5
  | .lal _ => 2#5
  | .lbl _ => 3#5
  | .lah _ => 4#5
  | .lbh _ => 5#5
  | .sva _ => 6#5
  | .stp _ => 7#5
  | .add _ => 8#5
  | .sub _ => 9#5
  | .and _ => 10#5
  | .or _ => 11#5
  | .xor _ => 12#5
  | .sup _ => 13#5
  | .sdn _ => 14#5
  | .mul _ => 15#5
  | .inb _ => 16#5
  | .rw _ => 17#5
  | .rr _ => 18#5
  | .rc _ => 19#5
  | .jmp _ => 20#5
  | .je _ => 21#5
  | .jne _ => 22#5
  | .jg _ => 23#5
  | .jl _ => 24#5
  | .jge _ => 25#5
  | .jle _ => 26#5
  | .reserved27 _ => 27#5
  | .reserved28 _ => 28#5
  | .reserved29 _ => 29#5
  | .unknown _ => 30#5
  | .nop _ => 31#5

/-- R76, R79: the decoded instruction with this opcode number and argument. Every number has its own
row; the last arm is 31. -/
def instrOfOpcode (op : BitVec 5) (arg : Option Nat) : Instr :=
  match op.toNat with
  | 0 => .la arg
  | 1 => .lb arg
  | 2 => .lal arg
  | 3 => .lbl arg
  | 4 => .lah arg
  | 5 => .lbh arg
  | 6 => .sva arg
  | 7 => .stp arg
  | 8 => .add arg
  | 9 => .sub arg
  | 10 => .and arg
  | 11 => .or arg
  | 12 => .xor arg
  | 13 => .sup arg
  | 14 => .sdn arg
  | 15 => .mul arg
  | 16 => .inb arg
  | 17 => .rw arg
  | 18 => .rr arg
  | 19 => .rc arg
  | 20 => .jmp arg
  | 21 => .je arg
  | 22 => .jne arg
  | 23 => .jg arg
  | 24 => .jl arg
  | 25 => .jge arg
  | 26 => .jle arg
  | 27 => .reserved27 arg
  | 28 => .reserved28 arg
  | 29 => .reserved29 arg
  | 30 => .unknown arg
  | _ => .nop arg

/-! ### The W32 word -/

/-- R71: bits [31:27], the opcode number. -/
def opField (w : BitVec 32) : BitVec 5 := w.extractLsb' 27 5

/-- R71: bit 26, set when an argument is present. -/
def presentBit (w : BitVec 32) : Bool := w.getLsbD 26

/-- R71: bits [25:0], the argument. -/
def argField (w : BitVec 32) : BitVec 26 := w.extractLsb' 0 26

/-- R76: `arg` of a word is `some (uval(ARG))` when `P = 1` and `none` when `P = 0`, where `ARG` is
ignored (R71). -/
def wordArg (w : BitVec 32) : Option Nat :=
  if presentBit w then some (argField w).toNat else none

/-- R76, R84: the decoded instruction of a W32 word. Total. -/
def decodeWord (w : BitVec 32) : Instr := instrOfOpcode (opField w) (wordArg w)

/-- R71: the word with these three fields. -/
def packWord (op : BitVec 5) (arg : Option Nat) : BitVec 32 :=
  op ++ BitVec.ofBool arg.isSome ++ BitVec.ofNat 26 (arg.getD 0)

/-- R71, R82: the W32 word of a well-formed instruction. -/
def encode (i : Instr) : BitVec 32 := packWord i.opcode i.arg

/-- The word whose bits are `w`, of which the lowest `nbits` are given and the rest are 0. -/
def tableWord (nbits w : Nat) : BitVec 32 := BitVec.ofNat 32 (w % 2 ^ nbits)

/-- The instruction read from an instruction of `nbits` bits. W32 words have 32 bits (R71, R87), so
no longer instruction exists. -/
def decodeTableWord (nbits w : Nat) : Option Instr :=
  if nbits ≤ 32 then some (decodeWord (tableWord nbits w)) else none

/-! ### The text level -/

/-- R72, log 9: the characters that separate tokens. DESIGN CHOICE (unsafe): the spec says
"whitespace" and lists no characters; the model takes the six ASCII ones (tab, line feed, vertical
tab, form feed, carriage return, space). -/
def isSpaceChar (c : Char) : Bool :=
  c = ' ' || (9 ≤ c.toNat && c.toNat ≤ 13)

/-- R73, R75: a record that `parse` can produce: its name holds no white space, and an empty name
has no argument. -/
abbrev TextInstruction.wf (i : TextInstruction) : Prop :=
  (∀ c ∈ i.name.toList, isSpaceChar c = false) ∧ (i.name = "" → i.arg = none)

/-- R72, R73: the tokens of a line. -/
def tokens : List Char → List (List Char)
  | [] => []
  | c :: cs =>
    if isSpaceChar c then tokens cs
    else match cs, tokens cs with
      | [], _ => [[c]]
      | _ :: _, [] => [[c]]
      | d :: _, t :: ts => if isSpaceChar d then [c] :: t :: ts else (c :: t) :: ts

/-- R74: an ASCII digit. -/
def isDigitChar (c : Char) : Bool := 48 ≤ c.toNat && c.toNat ≤ 57

/-- R74: a valid non-negative decimal literal is one or more ASCII digits and nothing else. -/
def isDecimalLiteral (t : List Char) : Bool := !t.isEmpty && t.all isDigitChar

/-- R73: the decimal value of a literal. -/
def decimalValue (t : List Char) : Nat := t.foldl (fun n c => 10 * n + (c.toNat - 48)) 0

/-- R73: the argument that the second token gives, with the forced-zero fallback. -/
def tokenArg (t : List Char) : Nat := if isDecimalLiteral t then decimalValue t else 0

/-- R73, R74: the record of the tokens of a line. Tokens after the second are ignored. -/
def instructionOfTokens : List (List Char) → TextInstruction
  | [] => TextInstruction.sentinel
  | [name] => { name := String.ofList name, arg := none }
  | name :: t :: _ => { name := String.ofList name, arg := some (tokenArg t) }

/-- R73: `parse(line)`. -/
def parseLine (line : String) : TextInstruction := instructionOfTokens (tokens line.toList)

/-- The decimal digits of `n` in at most `fuel` places, without leading zeros. -/
def digitsAux : Nat → Nat → List Char
  | 0, _ => []
  | fuel + 1, n =>
    if n < 10 then [Char.ofNat (48 + n)] else digitsAux fuel (n / 10) ++ [Char.ofNat (48 + n % 10)]

/-- R75: a natural number in decimal without leading zeros. -/
def decimalDigits (n : Nat) : List Char := digitsAux (n + 1) n

/-- R75: `format(instr)`. -/
def formatInstruction (i : TextInstruction) : String :=
  match i.arg with
  | none => i.name
  | some n => String.ofList (i.name.toList ++ ' ' :: decimalDigits n)

/-- R78: the lines of a text. A newline ends a line, so a final newline adds no line. -/
def splitLines : List Char → List (List Char)
  | [] => []
  | c :: cs =>
    if c = '\n' then [] :: splitLines cs
    else match splitLines cs with
      | [] => [[c]]
      | l :: ls => (c :: l) :: ls

/-- R78: the records of a program text, in line order. -/
def parseText (text : String) : List TextInstruction :=
  (splitLines text.toList).map fun l => instructionOfTokens (tokens l)

/-- R78: the program of a program text. -/
def programOfText (text : String) : List ProgramEntry := (parseText text).map .text

/-! ### Names, transcription, and the entries of the program store -/

/-- R77, R79: the 27 mnemonics and the empty name, with their opcode numbers. -/
def mnemonicTable : List (String × BitVec 5) := [
  ("LA", 0#5), ("LB", 1#5), ("LAL", 2#5), ("LBL", 3#5), ("LAH", 4#5), ("LBH", 5#5), ("SVA", 6#5),
  ("STP", 7#5), ("ADD", 8#5), ("SUB", 9#5), ("AND", 10#5), ("OR", 11#5), ("XOR", 12#5), ("SUP", 13#5),
  ("SDN", 14#5), ("MUL", 15#5), ("INB", 16#5), ("RW", 17#5), ("RR", 18#5), ("RC", 19#5), ("JMP", 20#5),
  ("JE", 21#5), ("JNE", 22#5), ("JG", 23#5), ("JL", 24#5), ("JGE", 25#5), ("JLE", 26#5), ("", 31#5)]

/-- R76, R82, R84: the opcode of a name, compared exactly and case-sensitively; any other name is
`UNKNOWN`, number 30. -/
def textOpcode (name : String) : BitVec 5 := (mnemonicTable.lookup name).getD 30#5

/-- R76: the decoded instruction of a text record. Total. -/
def decodeText (i : TextInstruction) : Instr := instrOfOpcode (textOpcode i.name) i.arg

/-- R82: the W32 word of a text record, none when the argument does not fit. -/
def transcribeLine (i : TextInstruction) : Option (BitVec 32) :=
  if argFits i.arg then some (packWord (textOpcode i.name) i.arg) else none

/-- R82: the words of the lines from number `k` on. DESIGN CHOICE (unsafe): of several lines that cannot be
encoded the first is named; R82 says "names the line" and gives no order (log 23). -/
def transcribeFrom (k : Nat) : List TextInstruction → Except TranscribeError (List (BitVec 32))
  | [] => .ok []
  | l :: ls =>
    match transcribeLine l with
    | none => .error (.argumentTooLarge k)
    | some w =>
      match transcribeFrom (k + 1) ls with
      | .error e => .error e
      | .ok ws => .ok (w :: ws)

/-- R82, D18: the W32 program of a text program. DESIGN CHOICE (unsafe): the length is checked first, so a
program that is too long and also holds an argument that does not fit is refused as too long, and no
line is named; the spec gives no order (log 23). -/
def transcribe (p : Params) (lines : List TextInstruction) :
    Except TranscribeError (List (BitVec 32)) :=
  if lines.length ≤ p.maxProgramLen then transcribeFrom 0 lines else .error .programTooLong

/-- R76, R101: the decoded instruction of an entry of the program store. Total. -/
def decodeEntry : ProgramEntry → Instr
  | .text i => decodeText i
  | .word w => decodeWord w

/-- R81: true only for `LA` and `LB` with an argument of 32 or more. -/
def Instr.isInput : Instr → Bool
  | .la (some n) => n / 32 ≠ 0
  | .lb (some n) => n / 32 ≠ 0
  | _ => false

end Sys2Proof
end

