-- ==== Sys2Proof/Machine/State.lean ====
section
/-! DEFINITION. The state of the CORE (10_state.md R20, "this record, and nothing else", and the
model's own two fields), its values at reset (R38), and the reasons a step can stop. Plain data. -/

namespace Sys2Proof.Machine

/-- Why the model stops with a fault of its own: never. The faults of 60_exceptions.md R241 end the
run in a state of the machine (R242), so a faulting step has a next state that records the fault
(log 6). Every index an instruction computes is in range (R244), so no access leaves its space. -/
inductive Fault
  deriving DecidableEq, Repr

/-- Why a step has no meaning. -/
inductive Refusal where
  /-- Raised by an arm of `exec` for an instruction without a meaning; none is left. Safe. -/
  | notModelled (mnemonic : String)
  /-- Raised by `step` on a halted machine: "In this spec a halted state has no step" (R108, U8,
  C1). Safe: no claim about such a step can be proved (log 5). -/
  | haltedStep
  deriving DecidableEq, Repr

/-- R30: which fatal fault ended the run. -/
inductive FaultKind where
  | none | indexFault | displayProtocolFault | illegalInstruction
  deriving DecidableEq, Repr

/-- R30: the sub-cause of an `INDEX_FAULT`. -/
inductive FaultReason where
  | none | missingArg | inputRange | fetchRange
  deriving DecidableEq, Repr

/-- R241: every fault the CORE can raise. -/
inductive Raise where
  /-- `IndexFault(MISSING_ARG)`, R104 -/
  | missingArg
  /-- `IndexFault(INPUT_RANGE)`, R122 -/
  | inputRange
  /-- `IndexFault(FETCH_RANGE)`, R107 -/
  | fetchRange
  /-- `DisplayProtocolFault()`, R145 -/
  | displayProtocolFault
  /-- `IllegalInstruction()`, R106 -/
  | illegalInstruction
  deriving DecidableEq, Repr

/-- R29: the words of `ram`. -/
abbrev ramWords : Nat := 1024

/-- R38: what a word of `ram` that no cell lists reads as: its reset value 0x0000. -/
def ramDefault : Word := 0#16

/-- R29: the 1024 words of `ram`, as (index, word) cells. The word is the smallest unit the machine
addresses (R50, R53, R54), so a cell holds a word (log 13). -/
abbrev Memory := List (Nat × Word)

/-- The canonical form: indices strictly rising and below 1024, and no cell equal to what an unlisted
word reads as. Equal memories are then equal lists. -/
abbrev Memory.wf (m : Memory) : Prop :=
  m.Pairwise (fun c d => c.1 < d.1) ∧ ∀ c ∈ m, c.1 < ramWords ∧ c.2 ≠ ramDefault

/-- R20: the state of the CORE, then the model's own fields. -/
structure State where
  /-- R33: the program store, written by the host only -/
  program : List ProgramEntry
  /-- R23: the instruction pointer, an index into `program` -/
  ip : Nat
  /-- R26: the step counter -/
  clockCycle : Nat
  /-- R21: accumulator -/
  a : Word
  /-- R21: accumulator -/
  b : Word
  /-- R31: scratch memory -/
  cacheSlots : Vector Word 32
  /-- R29: banked main memory -/
  ram : Memory
  /-- R28: the bank window, a copy and not an alias -/
  loadedBank : Vector Word 16
  /-- R27: which bank the window mirrors -/
  loadedBankIndex : Fin 64
  /-- R25: the run flag -/
  running : Bool
  /-- R32: the input register file, written by the host only -/
  inputs : Vector Word 8
  /-- R34: the output history, oldest entry first -/
  outHistory : List (Fin 32 × Word)
  /-- R36: the committed frame -/
  screen : Grid
  /-- R36: the pending frame -/
  screenbuffer : Grid
  /-- R30 -/
  faultKind : FaultKind
  /-- R30 -/
  faultReason : FaultReason
  /-- R30: the index of the instruction whose step faulted -/
  faultIp : Nat
  /-- the model's own: the parameters of R9 (log 2) -/
  params : Params
  /-- the model's own: how many free values have been drawn (log 7) -/
  freeDraws : Nat
  deriving DecidableEq, Repr

/-- R38, R270: the state right after a reset with this program. DESIGN CHOICE (safe): the model's
own counter `freeDraws` starts at 0 (log 7). -/
def State.initial (p : Params) (program : List ProgramEntry) : State where
  program := program
  ip := 0
  clockCycle := 0
  a := 0x0000#16
  b := 0x0000#16
  cacheSlots := Vector.replicate 32 0x0000#16
  ram := []
  loadedBank := Vector.replicate 16 0x0000#16
  loadedBankIndex := 0
  running := decide (0 < program.length)
  inputs := Vector.replicate 8 0x0000#16
  outHistory := []
  screen := blankGrid
  screenbuffer := blankGrid
  faultKind := .none
  faultReason := .none
  faultIp := 0
  params := p
  freeDraws := 0

/-- R38, R270: the machine right after a reset with the empty program text and the default
parameters of R9. It is halted, because the program is empty (D11); a program comes from a reset with
its text (log 3). -/
def State.reset : State := State.initial Params.default []

end Sys2Proof.Machine
end

