-- ==== Sys2Proof/Machine/Ops.lean ====
section
/-! DEFINITION. The named operations over the registers and memories (00_scope.md R11), the fetch,
the taking of a fault (60_exceptions.md R242), and the common step actions (40_step_cycle.md R101).
No instruction and no handler returns from a fault (R247): only the reset of Machine/HostPorts.lean
leaves a faulted state. -/

namespace Sys2Proof.Machine

/-! ### Words of `ram` -/

/-- `MemRead(RAM, i)` of R11. -/
def Memory.read (m : Memory) (i : Nat) : Word := (m.lookup i).getD ramDefault

/-- The memory without a cell for word `i`. -/
def Memory.eraseCell (m : Memory) (i : Nat) : Memory := m.filter fun c => c.1 ≠ i

/-- The memory with a cell for word `i`, put before the first larger index. -/
def Memory.insertCell (m : Memory) (i : Nat) (v : Word) : Memory :=
  match m with
  | [] => [(i, v)]
  | c :: cs => if c.1 < i then c :: Memory.insertCell cs i v else (i, v) :: c :: cs

/-- `MemWrite(RAM, i, v)` of R11. Writing the value an unlisted word reads as removes the cell. -/
def Memory.write (m : Memory) (i : Nat) (v : Word) : Memory :=
  if v = ramDefault then m.eraseCell i else (m.eraseCell i).insertCell i v

/-- R204: single-word writes of a block from word `base` up, in rising order. -/
def Memory.writeBlock (m : Memory) (base : Nat) : List Word → Memory
  | [] => m
  | v :: vs => Memory.writeBlock (m.write base v) (base + 1) vs

/-- R204: single-word reads of the 16 words of a bank. -/
def Memory.readBank (m : Memory) (bank : Fin 64) : Vector Word 16 :=
  Vector.ofFn fun j => m.read (16 * bank.val + j.val)

/-! ### Registers, cache, window, inputs -/

/-- R11: `a <- v`. -/
def State.setA (s : State) (v : Word) : State := { s with a := v }

/-- R11: `b <- v`. -/
def State.setB (s : State) (v : Word) : State := { s with b := v }

/-- R11: `ip <- target`. -/
def State.setIp (s : State) (target : Nat) : State := { s with ip := target }

/-- R160: `running <- false`. -/
def State.halt (s : State) : State := { s with running := false }

/-- R11: `MemRead(CACHE, i)`. -/
def State.readCache (s : State) (i : Fin 32) : Word := s.cacheSlots[i]

/-- R11: `MemWrite(CACHE, i, v)`. -/
def State.writeCache (s : State) (i : Fin 32) (v : Word) : State :=
  { s with cacheSlots := s.cacheSlots.set i.val v i.isLt }

/-- R11: `MemRead(INPUT, i)`. -/
def State.readInput (s : State) (i : Fin 8) : Word := s.inputs[i]

/-- R11: `MemRead(WINDOW, i)`. -/
def State.readWindow (s : State) (i : Fin 16) : Word := s.loadedBank[i]

/-- R11: `MemWrite(WINDOW, i, v)`. -/
def State.writeWindow (s : State) (i : Fin 16) (v : Word) : State :=
  { s with loadedBank := s.loadedBank.set i.val v i.isLt }

/-- R204: `ram` after the window is written back into its bank. -/
def State.writtenBack (s : State) : Memory :=
  s.ram.writeBlock (16 * s.loadedBankIndex.val) s.loadedBank.toList

/-- R204: write the old bank back, load bank `t`, and record it. -/
def State.switchBank (s : State) (t : Fin 64) : State :=
  { s with
    ram := s.writtenBack
    loadedBank := s.writtenBack.readBank t
    loadedBankIndex := t }

/-- R37: the value a program would find for word `j` of bank `k`. -/
def State.effRam (s : State) (k : Fin 64) (j : Fin 16) : Word :=
  if k = s.loadedBankIndex then s.readWindow j else s.ram.read (16 * k.val + j.val)

/-! ### Output history -/

/-- R11, R141: `Emit(r, v)`. -/
def State.emit (s : State) (r : Fin 32) (v : Word) : State :=
  { s with outHistory := s.outHistory ++ [(r, v)] }

/-- R35: the value of the last entry with register index 7. -/
def lastPosition : List (Fin 32 × Word) → Option Word
  | [] => none
  | (r, v) :: h =>
    match lastPosition h with
    | some w => some w
    | none => if r = 7 then some v else none

/-! ### Faults -/

/-- R241: the kind of each fault. -/
def Raise.kind : Raise → FaultKind
  | .missingArg | .inputRange | .fetchRange => .indexFault
  | .displayProtocolFault => .displayProtocolFault
  | .illegalInstruction => .illegalInstruction

/-- R241: the reason of each fault. -/
def Raise.reason : Raise → FaultReason
  | .missingArg => .missingArg
  | .inputRange => .inputRange
  | .fetchRange => .fetchRange
  | .displayProtocolFault | .illegalInstruction => .none

/-- R30: the codes of `fault_kind`. -/
def FaultKind.code : FaultKind → Nat
  | .none => 0
  | .indexFault => 1
  | .displayProtocolFault => 2
  | .illegalInstruction => 3

/-- R30: the codes of `fault_reason`. -/
def FaultReason.code : FaultReason → Nat
  | .none => 0
  | .missingArg => 1
  | .inputRange => 2
  | .fetchRange => 3

/-- R242, R243: the state after a step from `s` that raises `r`. `s` is the state before the step,
so nothing of the faulting step is committed. -/
def takeFault (r : Raise) (s : State) : State :=
  { s with
    running := false
    faultKind := r.kind
    faultReason := r.reason
    faultIp := s.ip }

/-- R11, R104: `need(arg)`. -/
def need (arg : Option Nat) : Except Raise Nat :=
  match arg with
  | some n => .ok n
  | none => .error .missingArg

/-! ### The common step actions -/

/-- R26, D17: the count after one more completed step. -/
def Params.nextCycle (p : Params) (n : Nat) : Nat :=
  match p.cycleCounterWidth with
  | none => n + 1
  | some width => (n + 1) % 2 ^ width

/-- R101: `ip <- s.ip + 1`, before the instruction executes. -/
def State.advance (s : State) : State := { s with ip := s.ip + 1 }

/-- R101: `clock_cycle <- clock_cycle + 1`. -/
def State.tick (s : State) : State := { s with clockCycle := Params.nextCycle s.params s.clockCycle }

/-- R101: a pointer past the end of the program stops the run. -/
def State.endCheck (s : State) : State :=
  if s.program.length ≤ s.ip then { s with running := false } else s

/-- R101, R242: the state after a step from `s` whose instruction has this execute part. -/
def completeStep (execute : State → Except Raise State) (s : State) : State :=
  match execute s.advance with
  | .error r => takeFault r s
  | .ok t => t.tick.endCheck

/-- R12, R101: the meaning of an instruction from its execute part: it does the common step actions
too, and takes the fault it raises. -/
def commonStep (execute : State → Except Raise State) (s : State) :
    Host.Outcome State Fault Refusal :=
  .next (completeStep execute s)

/-! ### Fetch -/

/-- R101: the entry of the program store at the pointer. -/
def State.fetch (s : State) : Option ProgramEntry := s.program[s.ip]?

/-- The program with this entry at index `k`. A program that ends before `k` is continued with empty
lines (log 3). -/
def placeEntry (entry : ProgramEntry) : Nat → List ProgramEntry → List ProgramEntry
  | 0, [] => [entry]
  | 0, _ :: es => entry :: es
  | k + 1, [] => ProgramEntry.sentinel :: placeEntry entry k []
  | k + 1, e :: es => e :: placeEntry entry k es

end Sys2Proof.Machine
end

