-- ==== Sys2Proof/Machine/Alu.lean ====
section
/-! DEFINITION. The accumulator ALU: ADD, SUB, AND, OR, XOR, SUP, SDN, MUL, INB (44_alu.md). Every
result is `wrap16` of the exact result (10_state.md R21). -/

namespace Sys2Proof.Machine

/-- R170. -/
def aluAdd (a b : Word) : Word := wrap16 (sval a + sval b)

/-- R171: `a` minus `b`. -/
def aluSub (a b : Word) : Word := wrap16 (sval a - sval b)

/-- R172. -/
def aluAnd (a b : Word) : Word := a &&& b

/-- R173. -/
def aluOr (a b : Word) : Word := a ||| b

/-- R174. -/
def aluXor (a b : Word) : Word := a ^^^ b

/-- R177: the low 16 bits of the product. -/
def aluMul (a b : Word) : Word := wrap16 (sval a * sval b)

/-- R178. -/
def aluIncrement (b : Word) : Word := wrap16 (sval b + 1)

/-- R175: `wrap16(sval(a) * 2^n)`. A count of 16 or more gives what 16 gives (R175, D7), so that no
larger power is ever formed (log 17). -/
def shiftUp (a : Word) (n : Nat) : Word := wrap16 (sval a * 2 ^ min n 16)

/-- R176: `wrap16(floor(sval(a) / 2^n))`. A count of 16 or more gives what 16 gives (R176, D7). -/
def shiftDown (a : Word) (n : Nat) : Word := wrap16 (sval a / 2 ^ min n 16)

/-- R170: the execute part of `ADD`. The argument is ignored (R85). -/
def executeAdd (_arg : Option Nat) (s : State) : Except Raise State := .ok (s.setA (aluAdd s.a s.b))

/-- ADD, R170. -/
def execAdd (arg : Option Nat) (s : State) : Host.Outcome State Fault Refusal :=
  commonStep (executeAdd arg) s

/-- R171: the execute part of `SUB`. The argument is ignored (R85). -/
def executeSub (_arg : Option Nat) (s : State) : Except Raise State := .ok (s.setA (aluSub s.a s.b))

/-- SUB, R171. -/
def execSub (arg : Option Nat) (s : State) : Host.Outcome State Fault Refusal :=
  commonStep (executeSub arg) s

/-- R172: the execute part of `AND`. The argument is ignored (R85). -/
def executeAnd (_arg : Option Nat) (s : State) : Except Raise State := .ok (s.setA (aluAnd s.a s.b))

/-- AND, R172. -/
def execAnd (arg : Option Nat) (s : State) : Host.Outcome State Fault Refusal :=
  commonStep (executeAnd arg) s

/-- R173: the execute part of `OR`. The argument is ignored (R85). -/
def executeOr (_arg : Option Nat) (s : State) : Except Raise State := .ok (s.setA (aluOr s.a s.b))

/-- OR, R173. -/
def execOr (arg : Option Nat) (s : State) : Host.Outcome State Fault Refusal :=
  commonStep (executeOr arg) s

/-- R174: the execute part of `XOR`. The argument is ignored (R85). -/
def executeXor (_arg : Option Nat) (s : State) : Except Raise State := .ok (s.setA (aluXor s.a s.b))

/-- XOR, R174. -/
def execXor (arg : Option Nat) (s : State) : Host.Outcome State Fault Refusal :=
  commonStep (executeXor arg) s

/-- R175: the execute part of `SUP n`. -/
def executeSup (arg : Option Nat) (s : State) : Except Raise State := do
  let n ← need arg
  return s.setA (shiftUp s.a n)

/-- SUP, R175. -/
def execSup (arg : Option Nat) (s : State) : Host.Outcome State Fault Refusal :=
  commonStep (executeSup arg) s

/-- R176: the execute part of `SDN n`. -/
def executeSdn (arg : Option Nat) (s : State) : Except Raise State := do
  let n ← need arg
  return s.setA (shiftDown s.a n)

/-- SDN, R176. -/
def execSdn (arg : Option Nat) (s : State) : Host.Outcome State Fault Refusal :=
  commonStep (executeSdn arg) s

/-- R177: the execute part of `MUL`. The argument is ignored (R85). -/
def executeMul (_arg : Option Nat) (s : State) : Except Raise State := .ok (s.setA (aluMul s.a s.b))

/-- MUL, R177. -/
def execMul (arg : Option Nat) (s : State) : Host.Outcome State Fault Refusal :=
  commonStep (executeMul arg) s

/-- R178: the execute part of `INB`. The argument is ignored (R85). -/
def executeInb (_arg : Option Nat) (s : State) : Except Raise State :=
  .ok (s.setB (aluIncrement s.b))

/-- INB, R178. -/
def execInb (arg : Option Nat) (s : State) : Host.Outcome State Fault Refusal :=
  commonStep (executeInb arg) s

end Sys2Proof.Machine
end

