-- ==== Sys2Proof/Machine/Operands.lean ====
section
/-! DEFINITION. How instructions use their argument and `b` (30_encoding.md R80, 20_memory.md R51 and
R52): the selector of `LA`, `LB` and `SVA`, the byte immediates, the window index and the target bank. -/

namespace Sys2Proof.Machine

/-- R51: what the argument of `LA`, `LB` or `SVA` names. -/
inductive Selector where
  /-- `n ÷ 32 = 0`: cache slot `n` -/
  | cache (i : Fin 32)
  /-- `n ÷ 32 ≠ 0`: index `n mod 32`, of an input for a load, of an output register for `SVA` -/
  | device (k : Fin 32)
  deriving DecidableEq, Repr

/-- R51, R80: the selector of an argument. `n mod 32` is `n` itself for a cache slot. -/
def selector (n : Nat) : Selector :=
  if n / 32 = 0 then .cache (Fin.ofNat 32 n) else .device (Fin.ofNat 32 n)

/-- R120, R121, R122: what a load with argument `n` reads. -/
def State.loadSelected (s : State) (n : Nat) : Except Raise Word :=
  match selector n with
  | .cache i => .ok (s.readCache i)
  | .device k => if h : k.val < 8 then .ok (s.readInput ⟨k.val, h⟩) else .error .inputRange

/-- R80, R123: the low-byte immediate `n & 0xFF`, zero-extended. -/
def lowByte (n : Nat) : Word := wrap16 (n &&& 0xFF : Nat)

/-- R80, R125: the high-byte immediate `wrap16(n * 2^8)`. -/
def highByte (n : Nat) : Word := wrap16 (n * 2 ^ 8)

/-- R52: `window_index(b) = uval(b) mod 16`. -/
def windowIndex (b : Word) : Fin 16 := ⟨uval b % 16, Nat.mod_lt _ (by decide)⟩

/-- R52, D6: `target_bank(b) = (sval(b) ÷ 16) mod 64`, with floor division and a modulus in 0..63. -/
def targetBank (b : Word) : Fin 64 := ⟨(sval b / 16 % 64).toNat, by omega⟩

end Sys2Proof.Machine
end

