-- ==== Sys2Proof/Machine/Bank.lean ====
section
/-! DEFINITION. The paged memory bank windower: RW, RR, RC (45_bank.md). None can fault. -/

namespace Sys2Proof.Machine

/-- R200: the execute part of `RW`. The argument is ignored (R85). -/
def executeRw (_arg : Option Nat) (s : State) : Except Raise State :=
  .ok (s.writeWindow (windowIndex s.b) s.a)

/-- RW, R200. -/
def execRw (arg : Option Nat) (s : State) : Host.Outcome State Fault Refusal :=
  commonStep (executeRw arg) s

/-- R202: the execute part of `RR`. The argument is ignored (R85). -/
def executeRr (_arg : Option Nat) (s : State) : Except Raise State :=
  .ok (s.setA (s.readWindow (windowIndex s.b)))

/-- RR, R202. -/
def execRr (arg : Option Nat) (s : State) : Host.Outcome State Fault Refusal :=
  commonStep (executeRr arg) s

/-- R204, R205: the execute part of `RC`: nothing when the target bank is loaded. The argument is
ignored (R85). -/
def executeRc (_arg : Option Nat) (s : State) : Except Raise State :=
  let t := targetBank s.b
  .ok (if t ≠ s.loadedBankIndex then s.switchBank t else s)

/-- RC, R204. -/
def execRc (arg : Option Nat) (s : State) : Host.Outcome State Fault Refusal :=
  commonStep (executeRc arg) s

end Sys2Proof.Machine
end

