-- ==== Sys2Proof/Machine/Halt.lean ====
section
/-! DEFINITION. Halt: STP (43_halt.md). -/

namespace Sys2Proof.Machine

/-- R160: the execute part of `STP`. The argument is ignored (R85). -/
def executeStp (_arg : Option Nat) (s : State) : Except Raise State := .ok s.halt

/-- STP, R160. -/
def execStp (arg : Option Nat) (s : State) : Host.Outcome State Fault Refusal :=
  commonStep (executeStp arg) s

end Sys2Proof.Machine
end

