-- ==== Sys2Proof/Machine/Flags.lean ====
section
/-! DEFINITION. The machine has no flag and no condition code (10_state.md R24): no instruction
leaves one. What a conditional jump computes instead, when it executes, is a signed comparison of the
accumulators (46_jumps.md). -/

namespace Sys2Proof.Machine

/-- R221 to R226: the comparisons of the conditional jumps. -/
inductive Condition where
  | equal | notEqual | greater | less | greaterOrEqual | lessOrEqual
  deriving DecidableEq, Repr

/-- R221 to R226: whether the comparison of `a` with `b`, as signed 16-bit values, holds. -/
def Condition.holds (c : Condition) (a b : Word) : Bool :=
  match c with
  | .equal => decide (sval a = sval b)
  | .notEqual => decide (sval a ≠ sval b)
  | .greater => decide (sval a > sval b)
  | .less => decide (sval a < sval b)
  | .greaterOrEqual => decide (sval a ≥ sval b)
  | .lessOrEqual => decide (sval a ≤ sval b)

end Sys2Proof.Machine
end

