-- ==== Sys2Proof/Machine/Jumps.lean ====
section
/-! DEFINITION. Control transfer: JMP, JE, JNE, JG, JL, JGE, JLE (46_jumps.md). A target is not
checked against the program (R227): the common step's end-of-program check follows the jump. -/

namespace Sys2Proof.Machine

/-- R220: the execute part of `JMP n`. -/
def executeJmp (arg : Option Nat) (s : State) : Except Raise State := do
  let n ← need arg
  return s.setIp n

/-- JMP, R220. -/
def execJmp (arg : Option Nat) (s : State) : Host.Outcome State Fault Refusal :=
  commonStep (executeJmp arg) s

/-- R221 to R226: the execute part of a conditional jump. The argument is needed whether or not the
condition holds (R104). -/
def executeJumpIf (c : Condition) (arg : Option Nat) (s : State) : Except Raise State := do
  let n ← need arg
  return if c.holds s.a s.b then s.setIp n else s

/-- JE, R221. -/
def execJe (arg : Option Nat) (s : State) : Host.Outcome State Fault Refusal :=
  commonStep (executeJumpIf .equal arg) s

/-- JNE, R222. -/
def execJne (arg : Option Nat) (s : State) : Host.Outcome State Fault Refusal :=
  commonStep (executeJumpIf .notEqual arg) s

/-- JG, R223. -/
def execJg (arg : Option Nat) (s : State) : Host.Outcome State Fault Refusal :=
  commonStep (executeJumpIf .greater arg) s

/-- JL, R224. -/
def execJl (arg : Option Nat) (s : State) : Host.Outcome State Fault Refusal :=
  commonStep (executeJumpIf .less arg) s

/-- JGE, R225. -/
def execJge (arg : Option Nat) (s : State) : Host.Outcome State Fault Refusal :=
  commonStep (executeJumpIf .greaterOrEqual arg) s

/-- JLE, R226. -/
def execJle (arg : Option Nat) (s : State) : Host.Outcome State Fault Refusal :=
  commonStep (executeJumpIf .lessOrEqual arg) s

end Sys2Proof.Machine
end

