-- ==== Sys2Proof/Machine/Loads.lean ====
section
/-! DEFINITION. Loads and immediates: LA, LB, LAL, LBL, LAH, LBH (41_loads.md). -/

namespace Sys2Proof.Machine

/-- R120: the execute part of `LA n`. -/
def executeLa (arg : Option Nat) (s : State) : Except Raise State := do
  let n ← need arg
  let v ← s.loadSelected n
  return s.setA v

/-- LA, R120. -/
def execLa (arg : Option Nat) (s : State) : Host.Outcome State Fault Refusal :=
  commonStep (executeLa arg) s

/-- R121: the execute part of `LB n`. -/
def executeLb (arg : Option Nat) (s : State) : Except Raise State := do
  let n ← need arg
  let v ← s.loadSelected n
  return s.setB v

/-- LB, R121. -/
def execLb (arg : Option Nat) (s : State) : Host.Outcome State Fault Refusal :=
  commonStep (executeLb arg) s

/-- R123: the execute part of `LAL n`. -/
def executeLal (arg : Option Nat) (s : State) : Except Raise State := do
  let n ← need arg
  return s.setA (lowByte n)

/-- LAL, R123. -/
def execLal (arg : Option Nat) (s : State) : Host.Outcome State Fault Refusal :=
  commonStep (executeLal arg) s

/-- R124: the execute part of `LBL n`. -/
def executeLbl (arg : Option Nat) (s : State) : Except Raise State := do
  let n ← need arg
  return s.setB (lowByte n)

/-- LBL, R124. -/
def execLbl (arg : Option Nat) (s : State) : Host.Outcome State Fault Refusal :=
  commonStep (executeLbl arg) s

/-- R125: the execute part of `LAH n`: an OR, not a replacement. -/
def executeLah (arg : Option Nat) (s : State) : Except Raise State := do
  let n ← need arg
  return s.setA (s.a ||| highByte n)

/-- LAH, R125. -/
def execLah (arg : Option Nat) (s : State) : Host.Outcome State Fault Refusal :=
  commonStep (executeLah arg) s

/-- R126: the execute part of `LBH n`. -/
def executeLbh (arg : Option Nat) (s : State) : Except Raise State := do
  let n ← need arg
  return s.setB (s.b ||| highByte n)

/-- LBH, R126. -/
def execLbh (arg : Option Nat) (s : State) : Host.Outcome State Fault Refusal :=
  commonStep (executeLbh arg) s

end Sys2Proof.Machine
end

