-- ==== Sys2Proof/Machine/NoOps.lean ====
section
/-! DEFINITION. The no-op terminator and the unrecognised instructions: NOP, UNKNOWN, RESERVED27 to
RESERVED29 (40_step_cycle.md R106, 30_encoding.md R84). -/

namespace Sys2Proof.Machine

/-- R106: the execute part of `NOP`. -/
def executeNop (_arg : Option Nat) (s : State) : Except Raise State := .ok s

/-- NOP, R106. -/
def execNop (arg : Option Nat) (s : State) : Host.Outcome State Fault Refusal :=
  commonStep (executeNop arg) s

/-- R106: the execute part of `UNKNOWN`, under the policy of the parameters. -/
def executeUnknown (_arg : Option Nat) (s : State) : Except Raise State :=
  match s.params.unknownOpPolicy with
  | .nop => .ok s
  | .fault => .error .illegalInstruction

/-- UNKNOWN, R106. -/
def execUnknown (arg : Option Nat) (s : State) : Host.Outcome State Fault Refusal :=
  commonStep (executeUnknown arg) s

/-- RESERVED27, R84: the reserved opcode 27 decodes and executes as `UNKNOWN`. -/
def execReserved27 (arg : Option Nat) (s : State) : Host.Outcome State Fault Refusal :=
  commonStep (executeUnknown arg) s

/-- RESERVED28, R84: the reserved opcode 28 decodes and executes as `UNKNOWN`. -/
def execReserved28 (arg : Option Nat) (s : State) : Host.Outcome State Fault Refusal :=
  commonStep (executeUnknown arg) s

/-- RESERVED29, R84: the reserved opcode 29 decodes and executes as `UNKNOWN`. -/
def execReserved29 (arg : Option Nat) (s : State) : Host.Outcome State Fault Refusal :=
  commonStep (executeUnknown arg) s

end Sys2Proof.Machine
end

