-- ==== Sys2Proof/Machine/Display.lean ====
section
/-! DEFINITION. The display pixel-grid controller behind output registers 6 and 7
(42_store_output.md R142 to R146). -/

namespace Sys2Proof.Machine

/-- R36: the pixel at `[x][y]`. -/
def Grid.pixel (g : Grid) (x y : Fin 64) : Bool := g[x][y]

/-- R144: `grid[x][y] <- v`. -/
def Grid.setPixel (g : Grid) (x y : Fin 64) (v : Bool) : Grid :=
  g.set x.val (g[x].set y.val v y.isLt) x.isLt

/-- R143: `decode_position(v)`: x is `v[5:0]`, y is `v[13:8]`. -/
def decodePosition (v : Word) : Fin 64 × Fin 64 :=
  (⟨(v.extractLsb' 0 6).toNat, (v.extractLsb' 0 6).isLt⟩,
   ⟨(v.extractLsb' 8 6).toNat, (v.extractLsb' 8 6).isLt⟩)

/-- R144: the five screen operations. -/
inductive ScreenCommand where
  | refresh | reset | on | toggle | off
  deriving DecidableEq, Repr

/-- R144: the screen operation with this literal value. -/
def screenCommand (v : Word) : Option ScreenCommand :=
  if v = 0x0001#16 then some .refresh
  else if v = 0x0002#16 then some .reset
  else if v = 0x0004#16 then some .on
  else if v = 0x0008#16 then some .toggle
  else if v = 0x0010#16 then some .off
  else none

/-- R144: a screen operation at pixel `[x][y]`. -/
def State.runCommand (s : State) (c : ScreenCommand) (x y : Fin 64) : State :=
  match c with
  | .refresh => { s with screen := s.screenbuffer }
  | .reset => { s with screenbuffer := blankGrid }
  | .on => { s with screenbuffer := Grid.setPixel s.screenbuffer x y true }
  | .toggle =>
    { s with screenbuffer := Grid.setPixel s.screenbuffer x y (!Grid.pixel s.screenbuffer x y) }
  | .off => { s with screenbuffer := Grid.setPixel s.screenbuffer x y false }

/-- R146, U5: a value "with more than one bit of 0x001F set". -/
def severalCommandBits (v : Word) : Bool :=
  decide (1 < ((List.range 5).filter fun k => v.getLsbD k).length)

/-- U5: both grids become free values. -/
def State.freeDisplay (s : State) : State :=
  { s with
    screen := Config.freeGrid s.freeDraws
    screenbuffer := Config.freeGrid (s.freeDraws + 1)
    freeDraws := s.freeDraws + 2 }

/-- R144: the display effect of a value that is none of the five literals: none under
`SCREEN_OP_MODE = ENUM`. DESIGN CHOICE (safe): under `FLAGS`, whose effect the spec does not give,
both grids are unknown after a value with several command bits (R146, U5, log 7). -/
def State.otherCommand (s : State) (v : Word) : State :=
  match s.params.screenOpMode with
  | .enum => s
  | .flags => if severalCommandBits v then s.freeDisplay else s

/-- R144: `ScreenOp(v, (x, y))`. -/
def State.screenOp (s : State) (v : Word) (pos : Fin 64 × Fin 64) : State :=
  match screenCommand v with
  | some c => s.runCommand c pos.1 pos.2
  | none => s.otherCommand v

end Sys2Proof.Machine
end

