-- ==== Sys2Proof/Machine/Store.lean ====
section
/-! DEFINITION. The store: SVA (42_store_output.md R140). -/

namespace Sys2Proof.Machine

/-- R140: the write of `v` to output register `r`: the history entry, and for register 6 the screen
operation at the last position, or the display protocol fault (R145). -/
def State.writeOutput (s : State) (r : Fin 32) (v : Word) : Except Raise State :=
  let t := s.emit r v
  if r = 6 then
    match lastPosition t.outHistory with
    | none => .error .displayProtocolFault
    | some p => .ok (t.screenOp v (decodePosition p))
  else .ok t

/-- R140: the execute part of `SVA n`. -/
def executeSva (arg : Option Nat) (s : State) : Except Raise State := do
  let n ← need arg
  match selector n with
  | .cache i => return s.writeCache i s.a
  | .device r => s.writeOutput r s.a

/-- SVA, R140. -/
def execSva (arg : Option Nat) (s : State) : Host.Outcome State Fault Refusal :=
  commonStep (executeSva arg) s

end Sys2Proof.Machine
end

