-- ==== Sys2Proof/Machine/Dispatch.lean ====
section
/-! DEFINITION. The dispatch of 40_step_cycle.md R103: exactly one arm per decoded opcode. -/

namespace Sys2Proof.Machine

def exec (i : Instr) (s : State) : Host.Outcome State Fault Refusal :=
  match i with
  | .la arg => Sys2Proof.Machine.execLa arg s
  | .lb arg => Sys2Proof.Machine.execLb arg s
  | .lal arg => Sys2Proof.Machine.execLal arg s
  | .lbl arg => Sys2Proof.Machine.execLbl arg s
  | .lah arg => Sys2Proof.Machine.execLah arg s
  | .lbh arg => Sys2Proof.Machine.execLbh arg s
  | .sva arg => Sys2Proof.Machine.execSva arg s
  | .stp arg => Sys2Proof.Machine.execStp arg s
  | .add arg => Sys2Proof.Machine.execAdd arg s
  | .sub arg => Sys2Proof.Machine.execSub arg s
  | .and arg => Sys2Proof.Machine.execAnd arg s
  | .or arg => Sys2Proof.Machine.execOr arg s
  | .xor arg => Sys2Proof.Machine.execXor arg s
  | .sup arg => Sys2Proof.Machine.execSup arg s
  | .sdn arg => Sys2Proof.Machine.execSdn arg s
  | .mul arg => Sys2Proof.Machine.execMul arg s
  | .inb arg => Sys2Proof.Machine.execInb arg s
  | .rw arg => Sys2Proof.Machine.execRw arg s
  | .rr arg => Sys2Proof.Machine.execRr arg s
  | .rc arg => Sys2Proof.Machine.execRc arg s
  | .jmp arg => Sys2Proof.Machine.execJmp arg s
  | .je arg => Sys2Proof.Machine.execJe arg s
  | .jne arg => Sys2Proof.Machine.execJne arg s
  | .jg arg => Sys2Proof.Machine.execJg arg s
  | .jl arg => Sys2Proof.Machine.execJl arg s
  | .jge arg => Sys2Proof.Machine.execJge arg s
  | .jle arg => Sys2Proof.Machine.execJle arg s
  | .reserved27 arg => Sys2Proof.Machine.execReserved27 arg s
  | .reserved28 arg => Sys2Proof.Machine.execReserved28 arg s
  | .reserved29 arg => Sys2Proof.Machine.execReserved29 arg s
  | .unknown arg => Sys2Proof.Machine.execUnknown arg s
  | .nop arg => Sys2Proof.Machine.execNop arg s

end Sys2Proof.Machine
end

