-- ==== Sys2Proof/Machine/Step.lean ====
section
/-! DEFINITION. One step (40_step_cycle.md R101, R107, R108), and the placing of an instruction word
where the step fetches. -/

namespace Sys2Proof.Machine

/-- R101: fetch, decode, execute. A halted machine has no step (R108, U8, log 5). A fetch beyond the
program raises `IndexFault(FETCH_RANGE)` (R107). The common step actions are part of each meaning. -/
def step (s : State) : Host.Outcome State Fault Refusal :=
  if s.running then
    match s.fetch with
    | none => .next (takeFault .fetchRange s)
    | some entry => exec (decodeEntry entry) s
  else .refused .haltedStep

/-- The state whose next step fetches and runs the W32 word `w`: the word stands at the pointer and
the machine runs. It stands for the loading of a program from outside (R270, R274, log 3). -/
def State.withFetchWord (s : State) (nbits w : Nat) : State :=
  { s with program := placeEntry (.word (tableWord nbits w)) s.ip s.program, running := true }

end Sys2Proof.Machine
end

