-- ==== Sys2Proof/Machine/HostPorts.lean ====
section
/-! DEFINITION. The host's side of the CORE (D19, 70_reset_and_hazards.md R270 to R274, R281, R282):
the transaction ports RESET, STEP, WRITE_INPUT and WRITE_PROGRAM, the instruction a step returns, and
the output event of a step. READ is the state itself. An action outside the host's contract has no
move here (93_implementation_defined.md section 3, log 20). -/

namespace Sys2Proof.Machine

/-- `RESET(program_text)`, R270, R271: the only way to set `running` back to true and to clear the
fault status. -/
def hostReset (p : Params) (text : String) : State := State.initial p (programOfText text)

/-- The reset of a hardware program store, whose program is W32 words (R71, R82). -/
def hostResetWords (p : Params) (words : List (BitVec 32)) : State :=
  State.initial p (words.map .word)

/-- `WRITE_INPUT(i, v)`, R274, R281. -/
def hostWriteInput (i : Fin 8) (v : Word) (s : State) : State :=
  { s with inputs := s.inputs.set i.val v i.isLt }

/-- `WRITE_PROGRAM(program)`, R274, R282: every other field is kept. -/
def hostWriteProgram (program : List ProgramEntry) (s : State) : State :=
  { s with program := program }

/-- R102: the instruction that the step that ended in `s` returned: the next one, or the sentinel when
there is none or when the step faulted (log 15). -/
def returnedEntry (s : State) : ProgramEntry :=
  if s.faultKind = .none then s.fetch.getD ProgramEntry.sentinel else ProgramEntry.sentinel

/-- R102: what `step()` returns; nothing when there is no step. -/
def stepReturns (s : State) : Option ProgramEntry :=
  match step s with
  | .next t => some (returnedEntry t)
  | .fault _ => none
  | .refused _ => none

/-- R81, R253: the host's look-ahead, whether the returned instruction will read an input. -/
def ProgramEntry.isInput (e : ProgramEntry) : Bool := (decodeEntry e).isInput

/-- D19: the output events `OUT(r, v)` between two states, the history entries appended. -/
def outputEvents (before after : State) : List (Fin 32 × Word) :=
  after.outHistory.drop before.outHistory.length

/-- R274: what the host may do between steps. Reading changes nothing, so it has no move. -/
inductive HostAction where
  | reset (p : Params) (text : String)
  | step
  | writeInput (i : Fin 8) (v : Word)
  | writeProgram (program : List ProgramEntry)
  deriving DecidableEq, Repr

/-- R274: the effect of a host action. -/
def hostAct (act : HostAction) (s : State) : Host.Outcome State Fault Refusal :=
  match act with
  | .reset p text => .next (hostReset p text)
  | .step => Sys2Proof.Machine.step s
  | .writeInput i v => .next (hostWriteInput i v s)
  | .writeProgram program => .next (hostWriteProgram program s)

end Sys2Proof.Machine
end

