-- ==== Sys2Proof/Safety.lean ====
section
/-! DEFINITION. What the claims call a final state, a normal and a faulted end (R275, R276), the
invariants of R40, and the vocabulary the statements share. -/

namespace Sys2Proof.Machine

/-- R14, R276: a final state. -/
abbrev State.isFinal (s : State) : Prop := s.running = false

/-- R275: a run that ended by `STP` or by running off the end. -/
abbrev State.endedNormally (s : State) : Prop := s.running = false ∧ s.faultKind = .none

/-- R275: a run that ended with a fault. -/
abbrev State.endedFaulted (s : State) : Prop := s.running = false ∧ s.faultKind ≠ .none

/-- What every state that steps and host actions reach from a reset satisfies: `ram` is in canonical
form, a running machine has no fault (R40), the reason belongs to the kind (R30, R241), no fault is
recorded without its instruction index, an illegal instruction only under the policy FAULT (R30), and
a finite cycle counter is within its width (R26). -/
structure State.HostInv (s : State) : Prop where
  ramWf : s.ram.wf
  runningNoFault : s.running = true → s.faultKind = .none
  reasonOfIndexFault : s.faultReason ≠ .none ↔ s.faultKind = .indexFault
  noFaultNoIp : s.faultKind = .none → s.faultIp = 0
  illegalOnlyUnderPolicy : s.faultKind = .illegalInstruction → s.params.unknownOpPolicy = .fault
  counterInWidth : ∀ width ∈ s.params.cycleCounterWidth, s.clockCycle < 2 ^ width

/-- R40: `HostInv`, and a running machine's pointer is inside the program. A host that shortens the
program breaks the last part (R282). -/
structure State.Inv (s : State) : Prop extends State.HostInv s where
  runningIpInProgram : s.running = true → s.ip < s.program.length

/-- R101: `t` with the pointer, counter and run flag that a completed step from `s` leaves when its
pointer becomes `ip'`. `t` gives every other field, and `t.running` says whether the instruction
itself let the machine run. -/
def finished (s : State) (ip' : Nat) (t : State) : State :=
  { t with
    ip := ip'
    clockCycle := Params.nextCycle s.params s.clockCycle
    running := t.running && decide (ip' < s.program.length) }

/-- R242: `s` with the fault status of this kind and reason and the run flag cleared. -/
def faulted (s : State) (kind : FaultKind) (reason : FaultReason) : State :=
  { s with running := false, faultKind := kind, faultReason := reason, faultIp := s.ip }

/-- R79: the classes of the opcode map. -/
inductive ArgClass where
  | required | ignored
  deriving DecidableEq, Repr

/-- R79: the class of a decoded opcode. -/
def argClass : Instr → ArgClass
  | .la _ | .lb _ | .lal _ | .lbl _ | .lah _ | .lbh _ | .sva _ | .sup _ | .sdn _ => .required
  | .jmp _ | .je _ | .jne _ | .jg _ | .jl _ | .jge _ | .jle _ => .required
  | .stp _ | .add _ | .sub _ | .and _ | .or _ | .xor _ | .mul _ | .inb _ => .ignored
  | .rw _ | .rr _ | .rc _ => .ignored
  | .reserved27 _ | .reserved28 _ | .reserved29 _ | .unknown _ | .nop _ => .ignored

end Sys2Proof.Machine
end

