-- ==== Sys2Proof/Certificates/Slice0/Obligations.lean ====
section
/-! DEFINITION. The statements about the CORE. `finished s ip' t` is `t` with the pointer `ip'`, the
counter and the run flag of a completed step from `s` (R101); `faulted s kind reason` is `s` with only
the fault status and the run flag changed (R242). Both are in Sys2Proof/Safety.lean. An equation
`exec i s = .next …` on a record update of `s` is a result, a completion and a frame in one: every
field the update does not name, every word of every memory among them, is as before. -/

open Sys2Proof Sys2Proof.Machine

/-! ### Encoding and text -/

/-- R71, R76, R79: decoding the W32 word of an instruction gives the instruction back, for every
opcode, argument present or absent, and every argument of 26 bits. That opcodes 27 to 29 have instructions
of their own is the model's choice (log 21). -/
def Obligations.DecodeOfEncodeIsTheInstruction : Prop :=
  ∀ i : Instr, i.wf → decodeWord (encode i) = i

/-- R71, R87: a W32 word whose `ARG` is 0 where `P` is 0 is the encoding of what it decodes to. For words
with opcode 27, 28 or 29 this is the model's choice: R76 and R79 decode them to `UNKNOWN`, whose number
is 30, and the model keeps an instruction of its own for each (log 21). -/
def Obligations.EncodeOfDecodeIsTheWord : Prop :=
  ∀ w : BitVec 32, (w.getLsbD 26 = false → w.extractLsb' 0 26 = 0#26) → encode (decodeWord w) = w

/-- R82: a transcribed program decodes, word by word, to what its text lines decode to, and every
program that fits is transcribed. -/
def Obligations.TranscriptionKeepsEveryInstruction : Prop :=
  ∀ (p : Params) (lines : List TextInstruction),
    (∀ ws, transcribe p lines = .ok ws → ws.map decodeWord = lines.map decodeText) ∧
    (programFits p lines → ∃ ws, transcribe p lines = .ok ws)

/-- R82, D18: the transcriber refuses a program longer than `MAX_PROGRAM_LEN`, and of the others exactly
those with an argument of more than 26 bits, naming the line. That the length is checked first and that
the line named is the first such line are the model's choices (logs 12 and 23). -/
def Obligations.TranscriberRefusesByName : Prop :=
  ∀ (p : Params) (lines : List TextInstruction),
    (transcribe p lines = .error .programTooLong ↔ p.maxProgramLen < lines.length) ∧
    ∀ k, transcribe p lines = .error (.argumentTooLarge k) ↔
      lines.length ≤ p.maxProgramLen ∧ ∃ h : k < lines.length, ¬ argFits lines[k].arg ∧
        ∀ j (hj : j < k), argFits (lines[j]'(by omega)).arg

/-- R75: what `parse` produces is a well-formed record, and parsing the format of a well-formed
record gives the record back. -/
def Obligations.ParseOfFormatIsTheRecord : Prop :=
  (∀ line : String, (parseLine line).wf) ∧
  ∀ i : TextInstruction, i.wf → parseLine (formatInstruction i) = i

/-- R73, R74: the tokens of a line decide its record: none gives the sentinel, one gives no argument,
a decimal second token its value, any other second token 0, whatever follows. -/
def Obligations.TokensDecideTheRecord : Prop :=
  ∀ (line : String) (name t : List Char) (rest : List (List Char)),
    (tokens line.toList = [] → parseLine line = { name := "", arg := none }) ∧
    (tokens line.toList = [name] → parseLine line = { name := String.ofList name, arg := none }) ∧
    (tokens line.toList = name :: t :: rest →
      parseLine line = { name := String.ofList name,
                         arg := some (if isDecimalLiteral t then decimalValue t else 0) })

/-- R78: lines that each end in a newline are read back, and a last line without a newline too. -/
def Obligations.LinesOfTextAreReadBack : Prop :=
  ∀ (lines : List (List Char)) (last : List Char),
    (∀ l ∈ lines, '\n' ∉ l) → '\n' ∉ last → last ≠ [] →
      splitLines (lines.flatMap fun l => l ++ ['\n']) = lines ∧
      splitLines ((lines.flatMap fun l => l ++ ['\n']) ++ last) = lines ++ [last]

/-- R71, R79, R93: words written out from the format decode to their instructions. -/
def Obligations.WordsOfTheSpecDecode : Prop :=
  decodeWord 0x14000005#32 = .lal (some 5) ∧ decodeWord 0x40000000#32 = .add none ∧
  decodeWord 0x34000026#32 = .sva (some 38) ∧ decodeWord 0xA4000000#32 = .jmp (some 0) ∧
  decodeWord 0x38000000#32 = .stp none ∧ decodeWord 0xF8000000#32 = .nop none ∧
  decodeWord 0x98000000#32 = .rc none ∧ decodeWord 0xF4000003#32 = .unknown (some 3) ∧
  decodeWord 0x07FFFFFF#32 = .la (some 67108863) ∧ decodeWord 0x03FFFFFF#32 = .la none

/-- R76, R77, R84: each of the 27 mnemonics decodes to its instruction and to no other, names are compared
exactly, the empty name is `NOP`, and a name that is none of the 27 mnemonics and not empty is
`UNKNOWN`. -/
def Obligations.NamesDecodeExactly : Prop :=
  ∀ (name : String) (arg : Option Nat),
    decodeText ⟨"LA", arg⟩ = .la arg ∧ decodeText ⟨"LB", arg⟩ = .lb arg ∧
    decodeText ⟨"LAL", arg⟩ = .lal arg ∧ decodeText ⟨"LBL", arg⟩ = .lbl arg ∧
    decodeText ⟨"LAH", arg⟩ = .lah arg ∧ decodeText ⟨"LBH", arg⟩ = .lbh arg ∧
    decodeText ⟨"SVA", arg⟩ = .sva arg ∧ decodeText ⟨"STP", arg⟩ = .stp arg ∧
    decodeText ⟨"ADD", arg⟩ = .add arg ∧ decodeText ⟨"SUB", arg⟩ = .sub arg ∧
    decodeText ⟨"AND", arg⟩ = .and arg ∧ decodeText ⟨"OR", arg⟩ = .or arg ∧
    decodeText ⟨"XOR", arg⟩ = .xor arg ∧ decodeText ⟨"SUP", arg⟩ = .sup arg ∧
    decodeText ⟨"SDN", arg⟩ = .sdn arg ∧ decodeText ⟨"MUL", arg⟩ = .mul arg ∧
    decodeText ⟨"INB", arg⟩ = .inb arg ∧ decodeText ⟨"RW", arg⟩ = .rw arg ∧
    decodeText ⟨"RR", arg⟩ = .rr arg ∧ decodeText ⟨"RC", arg⟩ = .rc arg ∧
    decodeText ⟨"JMP", arg⟩ = .jmp arg ∧ decodeText ⟨"JE", arg⟩ = .je arg ∧
    decodeText ⟨"JNE", arg⟩ = .jne arg ∧ decodeText ⟨"JG", arg⟩ = .jg arg ∧
    decodeText ⟨"JL", arg⟩ = .jl arg ∧ decodeText ⟨"JGE", arg⟩ = .jge arg ∧
    decodeText ⟨"JLE", arg⟩ = .jle arg ∧
    (∀ i : Instr, i.arg = arg → i.opcode.toNat < 27 →
      (decodeText { name := name, arg := arg } = i ↔ (name, i.opcode) ∈ mnemonicTable)) ∧
    decodeText { name := "", arg := arg } = .nop arg ∧
    mnemonicTable.map Prod.fst = [
      "LA", "LB", "LAL", "LBL", "LAH", "LBH", "SVA", "STP", "ADD", "SUB", "AND", "OR", "XOR", "SUP",
      "SDN", "MUL", "INB", "RW", "RR", "RC", "JMP", "JE", "JNE", "JG", "JL", "JGE", "JLE", ""] ∧
    (name ∉ mnemonicTable.map Prod.fst → decodeText { name := name, arg := arg } = .unknown arg)

/-- R81: `is_input` is true exactly for `LA` and `LB` with an argument of 32 or more. -/
def Obligations.IsInputExactlyForDeviceLoads : Prop :=
  ∀ i : Instr, i.isInput = true ↔ ∃ n, 32 ≤ n ∧ (i = .la (some n) ∨ i = .lb (some n))

/-! ### The step -/

/-- R101: a step of a running machine whose pointer is at an entry is the meaning of the entry's
decoded instruction. The meaning holds the common step actions (R12). -/
def Obligations.StepRunsTheDecodedInstruction : Prop :=
  ∀ (s : State) (entry : ProgramEntry), s.running = true → s.program[s.ip]? = some entry →
    step s = exec (decodeEntry entry) s

/-- The model's own loading of one word (log 3): the next step of `withFetchWord` runs exactly the
decoded word, on a state that differs only in the program and the run flag. -/
def Obligations.FetchWordRunsNext : Prop :=
  ∀ (s : State) (w : BitVec 32), ∃ program,
    s.withFetchWord 32 w.toNat = { s with program := program, running := true } ∧
    step (s.withFetchWord 32 w.toNat) = exec (decodeWord w) { s with program := program, running := true }

/-- R107: a fetch beyond the program while running raises `IndexFault(FETCH_RANGE)`. -/
def Obligations.FetchBeyondProgramFaults : Prop :=
  ∀ s : State, s.running = true → s.program.length ≤ s.ip →
    step s = .next (faulted s .indexFault .fetchRange)

/-- R108, U8, log 5: exactly the halted states have no step, and the model refuses it by name. -/
def Obligations.HaltedExactlyWhenNoStep : Prop :=
  ∀ s : State, (s.running = false → step s = .refused .haltedStep) ∧
    (s.running = true → ∃ t, step s = .next t)

/-- R102: what a step returns: the entry at the new pointer, the sentinel past the end of the program
and after a fault. -/
def Obligations.StepReturnsTheNextInstruction : Prop :=
  ∀ s t : State, s.faultKind = .none → step s = .next t →
    (t.faultKind = .none → ∀ h : t.ip < s.program.length, stepReturns s = some s.program[t.ip]) ∧
    (t.faultKind = .none → s.program.length ≤ t.ip → stepReturns s = some (.text ⟨"", none⟩)) ∧
    (t.faultKind ≠ .none → stepReturns s = some (.text ⟨"", none⟩))

/-- R101, R242, R243: from every state an instruction either takes one fault of the table of R241,
with nothing else changed, or completes: the counter advances, the pointer is the next index or the
target of a jump, the fault status is as before, and the machine runs on exactly when it ran, the
instruction is not `STP` and the pointer is inside the program. -/
def Obligations.EveryInstructionCompletesOrFaultsPrecisely : Prop :=
  ∀ (i : Instr) (s : State), ∃ t, exec i s = .next t ∧
    ((∃ kr ∈ [(FaultKind.indexFault, FaultReason.missingArg), (.indexFault, .inputRange),
          (.displayProtocolFault, .none), (.illegalInstruction, .none)], t = faulted s kr.1 kr.2) ∨
      (t.clockCycle = Params.nextCycle s.params s.clockCycle ∧
        (t.ip = s.ip + 1 ∨ (20 ≤ i.opcode.toNat ∧ i.opcode.toNat ≤ 26 ∧ i.arg = some t.ip)) ∧
        t.faultKind = s.faultKind ∧ t.faultReason = s.faultReason ∧ t.faultIp = s.faultIp ∧
        (t.running = true ↔
          s.running = true ∧ i.opcode ≠ 7#5 ∧ t.ip < s.program.length)))

/-- R241, R244: an instruction of a machine without a fault faults only for one of the four causes of
the table, and then records that cause. -/
def Obligations.NoFaultWithoutItsCause : Prop :=
  ∀ (i : Instr) (s t : State), s.faultKind = .none → exec i s = .next t → t.faultKind ≠ .none →
    (argClass i = .required ∧ i.arg = none ∧ t = faulted s .indexFault .missingArg) ∨
    (∃ n, (i = .la (some n) ∨ i = .lb (some n)) ∧ 32 ≤ n ∧ 8 ≤ n % 32 ∧
      t = faulted s .indexFault .inputRange) ∨
    (∃ n, i = .sva (some n) ∧ 32 ≤ n ∧ n % 32 = 6 ∧ (∀ v, ((7 : Fin 32), v) ∉ s.outHistory) ∧
      t = faulted s .displayProtocolFault .none) ∨
    (s.params.unknownOpPolicy = .fault ∧ 27 ≤ i.opcode.toNat ∧ i.opcode.toNat ≤ 30 ∧
      t = faulted s .illegalInstruction .none)

/-- R105: a step changes at most one accumulator; a cache slot only as the slot that an `SVA` names; a
window word only as the word that an `RW` names by `b`, or by an `RC`, which changes no accumulator and
nothing at all when it keeps the bank; it appends at most the one entry of the output register that an
`SVA` names; and it never sets the run flag. -/
def Obligations.OneInstructionWritesLittle : Prop :=
  ∀ (i : Instr) (s t : State), exec i s = .next t →
    (t.a = s.a ∨ t.b = s.b) ∧
    (∀ j : Fin 32, (∀ n, i = .sva (some n) → n < 32 → j ≠ Fin.ofNat 32 n) →
      t.cacheSlots[j] = s.cacheSlots[j]) ∧
    ((∀ arg, i ≠ .rc arg) → t.loadedBankIndex = s.loadedBankIndex ∧ t.ram = s.ram ∧
      ∀ j : Fin 16, (∀ arg, i = .rw arg → j ≠ windowIndex s.b) → t.loadedBank[j] = s.loadedBank[j]) ∧
    (∀ arg, i = .rc arg → t.a = s.a ∧ t.b = s.b ∧
      (t.loadedBankIndex = s.loadedBankIndex → t.ram = s.ram ∧ t.loadedBank = s.loadedBank)) ∧
    (t.outHistory = s.outHistory ∨ ∃ n, i = .sva (some n) ∧ 32 ≤ n ∧
      t.outHistory = s.outHistory ++ [(Fin.ofNat 32 n, s.a)]) ∧
    (t.running = true → s.running = true)

/-- R32, R33, R39: no instruction writes the inputs or the program, nor the model's parameters. -/
def Obligations.NoInstructionWritesHostState : Prop :=
  ∀ (i : Instr) (s t : State), exec i s = .next t →
    t.program = s.program ∧ t.inputs = s.inputs ∧ t.params = s.params

/-- R40, R30, R26: every step keeps the invariant. Its part on the form of the memory is the model's
representation (log 13). -/
def Obligations.EveryStepKeepsTheInvariant : Prop :=
  ∀ s t : State, s.Inv → step s = .next t → t.Inv

/-- R40, R30, R26: the reset states have the invariant, with a program of text lines and with one of
words. Its part on the form of the memory is the model's representation (log 13). -/
def Obligations.ResetHasTheInvariant : Prop :=
  State.reset.Inv ∧ (∀ (p : Params) (text : String), (hostReset p text).Inv) ∧
    ∀ (p : Params) (words : List (BitVec 32)), (hostResetWords p words).Inv

/-- R40, R30, R26, R282: every host action keeps the part of the invariant that a replaced program
cannot break. Its part on the form of the memory is the model's representation (log 13). -/
def Obligations.EveryHostActionKeepsTheHostInvariant : Prop :=
  ∀ (act : HostAction) (s t : State), s.HostInv → hostAct act s = .next t → t.HostInv

/-- R30, R247, R271: only a reset sets the run flag of a halted machine, and only a reset changes a
recorded fault. -/
def Obligations.OnlyResetRestartsOrClearsAFault : Prop :=
  ∀ (act : HostAction) (s t : State), s.HostInv → hostAct act s = .next t →
    (∀ p text, act ≠ .reset p text) →
      (s.running = false → t.running = false) ∧
      (s.faultKind ≠ .none → t.faultKind = s.faultKind ∧ t.faultReason = s.faultReason ∧
        t.faultIp = s.faultIp ∧ t.running = false)

/-- R26, R40, R250: under an unbounded counter, a run of `n` steps from a state without a fault adds
`n` to the counter, or `n - 1` when its last step faulted. -/
def Obligations.RunCountsItsCompletedSteps : Prop :=
  ∀ (n : Nat) (s t : State), s.params.cycleCounterWidth = none → s.faultKind = .none →
    Host.Core.run Sys2Proof.core n s = .next t →
      (t.faultKind = .none → t.clockCycle = s.clockCycle + n) ∧
      (t.faultKind ≠ .none → t.clockCycle + 1 = s.clockCycle + n ∧ t.running = false)

/-- R34: over a run of `n` steps the history only grows at its end, by at most `n` entries. -/
def Obligations.RunOnlyAppendsToTheHistory : Prop :=
  ∀ (n : Nat) (s t : State), Host.Core.run Sys2Proof.core n s = .next t →
    ∃ new, t.outHistory = s.outHistory ++ new ∧ new.length ≤ n

/-- R26, R250: no instruction reads the counter: with any other count the next state is the same in
every other field. -/
def Obligations.NoInstructionReadsTheCounter : Prop :=
  ∀ (i : Instr) (s t : State) (c : Nat), exec i s = .next t →
    ∃ c', exec i { s with clockCycle := c } = .next { t with clockCycle := c' }

/-- R32, R81, R253: only an instruction for which `is_input` holds reads an input: any other does the
same whatever the inputs are. -/
def Obligations.OnlyInputLoadsSeeTheInputs : Prop :=
  ∀ (i : Instr) (s t : State) (inputs : Vector Word 8), i.isInput = false → exec i s = .next t →
    exec i { s with inputs := inputs } = .next { t with inputs := inputs }

/-! ### Arguments -/

/-- R86: an instruction of class REQ without an argument raises `IndexFault(MISSING_ARG)` before it
has any effect. -/
def Obligations.RequiredArgumentMissingFaults : Prop :=
  ∀ (i : Instr) (s : State), argClass i = .required → i.arg = none →
    exec i s = .next (faulted s .indexFault .missingArg)

/-- R85: an instruction of class IGN keeps its argument in the record and does the same with every
argument and with none. -/
def Obligations.IgnoredArgumentHasNoEffect : Prop :=
  ∀ (op : BitVec 5) (arg : Option Nat) (s : State), argClass (instrOfOpcode op none) = .ignored →
    (instrOfOpcode op arg).arg = arg ∧
    exec (instrOfOpcode op arg) s = exec (instrOfOpcode op none) s

/-! ### Loads and immediates -/

/-- R120, R121, R122: the loads, every form. -/
def Obligations.LoadsReadCacheOrInput : Prop :=
  ∀ s : State,
    (∀ n (h : n < 32),
      exec (.la (some n)) s = .next (finished s (s.ip + 1) { s with a := s.cacheSlots[n] }) ∧
      exec (.lb (some n)) s = .next (finished s (s.ip + 1) { s with b := s.cacheSlots[n] })) ∧
    (∀ n, 32 ≤ n → ∀ h : n % 32 < 8,
      exec (.la (some n)) s = .next (finished s (s.ip + 1) { s with a := s.inputs[n % 32] }) ∧
      exec (.lb (some n)) s = .next (finished s (s.ip + 1) { s with b := s.inputs[n % 32] })) ∧
    (∀ n, 32 ≤ n → 8 ≤ n % 32 →
      exec (.la (some n)) s = .next (faulted s .indexFault .inputRange) ∧
      exec (.lb (some n)) s = .next (faulted s .indexFault .inputRange)) ∧
    exec (.la none) s = .next (faulted s .indexFault .missingArg) ∧
    exec (.lb none) s = .next (faulted s .indexFault .missingArg) ∧
    (∀ arg, (Instr.la arg).opcode = 0#5 ∧ (Instr.lb arg).opcode = 1#5)

/-- R123, R124: the low byte is the low byte of the argument and the high byte is 0. -/
def Obligations.LowByteImmediatesReplaceTheRegister : Prop :=
  ∀ (s : State) (n : Nat),
    exec (.lal (some n)) s =
      .next (finished s (s.ip + 1) { s with a := 0#8 ++ BitVec.ofNat 8 n }) ∧
    exec (.lbl (some n)) s =
      .next (finished s (s.ip + 1) { s with b := 0#8 ++ BitVec.ofNat 8 n }) ∧
    exec (.lal none) s = .next (faulted s .indexFault .missingArg) ∧
    exec (.lbl none) s = .next (faulted s .indexFault .missingArg) ∧
    (∀ arg, (Instr.lal arg).opcode = 2#5 ∧ (Instr.lbl arg).opcode = 3#5)

/-- R125, R126: the low byte of the argument is ORed into the high byte, the low byte is kept. -/
def Obligations.HighByteImmediatesOrIntoTheRegister : Prop :=
  ∀ (s : State) (n : Nat),
    exec (.lah (some n)) s = .next (finished s (s.ip + 1)
      { s with a := (s.a.extractLsb' 8 8 ||| BitVec.ofNat 8 n) ++ s.a.extractLsb' 0 8 }) ∧
    exec (.lbh (some n)) s = .next (finished s (s.ip + 1)
      { s with b := (s.b.extractLsb' 8 8 ||| BitVec.ofNat 8 n) ++ s.b.extractLsb' 0 8 }) ∧
    exec (.lah none) s = .next (faulted s .indexFault .missingArg) ∧
    exec (.lbh none) s = .next (faulted s .indexFault .missingArg) ∧
    (∀ arg, (Instr.lah arg).opcode = 4#5 ∧ (Instr.lbh arg).opcode = 5#5)

/-- R127: the constant-building law, and that it reaches every constant. -/
def Obligations.TwoImmediatesBuildAnyConstant : Prop :=
  (∀ (s : State) (l h : Nat), l < 256 → h < 256 →
    (∃ t u, exec (.lal (some l)) s = .next t ∧ exec (.lah (some h)) t = .next u ∧
      u.a = wrap16 (l + 256 * h) ∧ u.b = s.b ∧ (h < 128 → sval u.a = l + 256 * h) ∧
      (128 ≤ h → sval u.a = l + 256 * h - 65536)) ∧
    (∃ t u, exec (.lbl (some l)) s = .next t ∧ exec (.lbh (some h)) t = .next u ∧
      u.b = wrap16 (l + 256 * h) ∧ u.a = s.a ∧ (h < 128 → sval u.b = l + 256 * h) ∧
      (128 ≤ h → sval u.b = l + 256 * h - 65536))) ∧
  ∀ c : Word, ∃ l h : Nat, l < 256 ∧ h < 256 ∧ wrap16 (l + 256 * h) = c

/-! ### Store, output registers, display -/

/-- R140, R141, R142, R57: a store to a cache slot writes `a` there, and a write to an output register
other than 6 only appends the pair to the history. -/
def Obligations.StoreWritesCacheOrAppends : Prop :=
  ∀ s : State,
    (∀ n (h : n < 32), exec (.sva (some n)) s =
      .next (finished s (s.ip + 1) { s with cacheSlots := s.cacheSlots.set n s.a })) ∧
    (∀ n, 32 ≤ n → n % 32 ≠ 6 → exec (.sva (some n)) s = .next (finished s (s.ip + 1)
      { s with outHistory := s.outHistory ++ [(Fin.ofNat 32 n, s.a)] })) ∧
    exec (.sva none) s = .next (faulted s .indexFault .missingArg)

/-- R145, R243: a write to output register 6 without an earlier register-7 entry faults, whatever `a`
is, and appends nothing. With such an entry, however old, it completes and appends the pair. -/
def Obligations.DisplayWithoutPositionFaults : Prop :=
  ∀ (s : State) (n : Nat), 32 ≤ n → n % 32 = 6 →
    ((∀ v, ((7 : Fin 32), v) ∉ s.outHistory) →
      exec (.sva (some n)) s = .next (faulted s .displayProtocolFault .none)) ∧
    ((∃ v, ((7 : Fin 32), v) ∈ s.outHistory) →
      ∃ t, exec (.sva (some n)) s = .next t ∧ t.faultKind = s.faultKind ∧ t.ip = s.ip + 1 ∧
        t.outHistory = s.outHistory ++ [(6, s.a)])

/-- R140, R143, R144: a write of one of the five command values to output register 6 appends the pair
and runs the screen operation at the last position. -/
def Obligations.DisplayCommandsRunAtTheLastPosition : Prop :=
  ∀ (s : State) (n : Nat) (p : Word) (x y : Fin 64), 32 ≤ n → n % 32 = 6 →
    lastPosition s.outHistory = some p → decodePosition p = (x, y) →
      let h := s.outHistory ++ [((6 : Fin 32), s.a)]
      (s.a = 0x0001#16 → exec (.sva (some n)) s =
        .next (finished s (s.ip + 1) { s with outHistory := h, screen := s.screenbuffer })) ∧
      (s.a = 0x0002#16 → exec (.sva (some n)) s = .next (finished s (s.ip + 1)
        { s with
          outHistory := h
          screenbuffer := Vector.replicate 64 (Vector.replicate 64 false) })) ∧
      (s.a = 0x0004#16 → exec (.sva (some n)) s = .next (finished s (s.ip + 1)
        { s with
          outHistory := h
          screenbuffer := s.screenbuffer.set x (s.screenbuffer[x].set y true) })) ∧
      (s.a = 0x0008#16 → exec (.sva (some n)) s = .next (finished s (s.ip + 1)
        { s with
          outHistory := h
          screenbuffer := s.screenbuffer.set x (s.screenbuffer[x].set y (!s.screenbuffer[x][y])) })) ∧
      (s.a = 0x0010#16 → exec (.sva (some n)) s = .next (finished s (s.ip + 1)
        { s with
          outHistory := h
          screenbuffer := s.screenbuffer.set x (s.screenbuffer[x].set y false) }))

/-- R144, R146: a value at output register 6 that is no command value is recorded and has no display
effect under ENUM. Under FLAGS the same holds of a value with at most one of the bits 0x1F set, and
with several of them both grids are free (U5, the model's choice, log 7): the instruction completes
with some grids, and every other field of the spec is as before. -/
def Obligations.OtherDisplayValuesAreOnlyRecorded : Prop :=
  ∀ (s : State) (n : Nat) (p : Word), 32 ≤ n → n % 32 = 6 → lastPosition s.outHistory = some p →
    s.a ∉ [0x0001#16, 0x0002#16, 0x0004#16, 0x0008#16, 0x0010#16] →
      let h := s.outHistory ++ [((6 : Fin 32), s.a)]
      (s.params.screenOpMode = .enum ∨ severalCommandBits s.a = false → exec (.sva (some n)) s =
        .next (finished s (s.ip + 1) { s with outHistory := h })) ∧
      (s.params.screenOpMode = .flags → severalCommandBits s.a = true → ∃ g g' d, exec (.sva (some n)) s =
        .next (finished s (s.ip + 1)
          { s with outHistory := h, screen := g, screenbuffer := g', freeDraws := d }))

/-- R143: x is `v & 0x3F` and y is `(v >> 8) & 0x3F`, an arithmetic shift. -/
def Obligations.PositionIsTheTwoSixBitFields : Prop :=
  ∀ v : Word, BitVec.ofNat 16 (decodePosition v).1.val = v &&& 0x3F#16 ∧
    BitVec.ofNat 16 (decodePosition v).2.val = v.sshiftRight 8 &&& 0x3F#16

/-- R35: the last position is the value of the last history entry with register index 7. -/
def Obligations.LastPositionIsTheLatestEntry : Prop :=
  ∀ (h : List (Fin 32 × Word)) (v : Word),
    (lastPosition h = some v ↔
      ∃ before after, h = before ++ (7, v) :: after ∧ ∀ w, ((7 : Fin 32), w) ∉ after) ∧
    (lastPosition h = none ↔ ∀ w, ((7 : Fin 32), w) ∉ h)

/-- R36, R144: under ENUM an instruction changes the committed frame only by a refresh, and the pending
frame only by one of the other four commands. -/
def Obligations.GridsChangeOnlyByTheirCommands : Prop :=
  ∀ (i : Instr) (s t : State), s.params.screenOpMode = .enum → exec i s = .next t →
    (t.screen ≠ s.screen → (∃ n, i = .sva (some n) ∧ 32 ≤ n ∧ n % 32 = 6) ∧ s.a = 0x0001#16 ∧
      t.screen = s.screenbuffer) ∧
    (t.screenbuffer ≠ s.screenbuffer → (∃ n, i = .sva (some n) ∧ 32 ≤ n ∧ n % 32 = 6) ∧
      s.a ∈ [0x0002#16, 0x0004#16, 0x0008#16, 0x0010#16] ∧ t.screen = s.screen)

/-! ### Halt and the unrecognised instructions -/

/-- R160: `STP` with or without an argument clears the run flag and does the common step actions. The
step returns the instruction after it where there is one. -/
def Obligations.StopClearsTheRunFlag : Prop :=
  ∀ (arg : Option Nat) (s : State),
    exec (.stp arg) s = .next
      { s with
        ip := s.ip + 1
        clockCycle := Params.nextCycle s.params s.clockCycle
        running := false } ∧
    (Instr.stp arg).opcode = 7#5 ∧
    ∀ entry, s.running = true → s.faultKind = .none → s.program[s.ip]? = some entry →
      decodeEntry entry = .stp arg → ∀ h : s.ip + 1 < s.program.length,
        stepReturns s = some s.program[s.ip + 1]

/-- R84, R106: `NOP` only does the common step actions. So do `UNKNOWN` and the reserved opcodes under
the policy NOP; under FAULT they raise `ILLEGAL_INSTRUCTION`. -/
def Obligations.NoOpsAndUnrecognisedInstructions : Prop :=
  ∀ (arg : Option Nat) (s : State),
    exec (.nop arg) s = .next (finished s (s.ip + 1) s) ∧ (Instr.nop arg).opcode = 31#5 ∧
    ∀ i ∈ [Instr.reserved27 arg, .reserved28 arg, .reserved29 arg, .unknown arg],
      27 ≤ i.opcode.toNat ∧ i.opcode.toNat ≤ 30 ∧
      (s.params.unknownOpPolicy = .nop → exec i s = .next (finished s (s.ip + 1) s)) ∧
      (s.params.unknownOpPolicy = .fault →
        exec i s = .next (faulted s .illegalInstruction .none))

/-! ### ALU -/

/-- R170, R171, R177, R178: wrap-around arithmetic. The sum and the low half of the product are the same
for operands read as unsigned. -/
def Obligations.ArithmeticWraps : Prop :=
  ∀ (arg : Option Nat) (s : State),
    exec (.add arg) s =
      .next (finished s (s.ip + 1) { s with a := wrap16 (sval s.a + sval s.b) }) ∧
    exec (.sub arg) s =
      .next (finished s (s.ip + 1) { s with a := wrap16 (sval s.a - sval s.b) }) ∧
    exec (.mul arg) s =
      .next (finished s (s.ip + 1) { s with a := wrap16 (sval s.a * sval s.b) }) ∧
    exec (.inb arg) s = .next (finished s (s.ip + 1) { s with b := wrap16 (sval s.b + 1) }) ∧
    wrap16 (sval s.a + sval s.b) = wrap16 (uval s.a + uval s.b) ∧
    wrap16 (sval s.a * sval s.b) = wrap16 (uval s.a * uval s.b) ∧
    (Instr.add arg).opcode = 8#5 ∧ (Instr.sub arg).opcode = 9#5 ∧
    (Instr.mul arg).opcode = 15#5 ∧ (Instr.inb arg).opcode = 16#5

/-- R172, R173, R174: bitwise operations. -/
def Obligations.BitwiseOperations : Prop :=
  ∀ (arg : Option Nat) (s : State),
    exec (.and arg) s = .next (finished s (s.ip + 1) { s with a := s.a &&& s.b }) ∧
    exec (.or arg) s = .next (finished s (s.ip + 1) { s with a := s.a ||| s.b }) ∧
    exec (.xor arg) s = .next (finished s (s.ip + 1) { s with a := s.a ^^^ s.b }) ∧
    (Instr.and arg).opcode = 10#5 ∧ (Instr.or arg).opcode = 11#5 ∧ (Instr.xor arg).opcode = 12#5

/-- R175, R176: shifts by every natural count, as multiplication and floor division by a power of
two, and these are the shifts of the pattern. -/
def Obligations.ShiftsAreExactAtEveryCount : Prop :=
  ∀ (s : State) (n : Nat),
    exec (.sup (some n)) s =
      .next (finished s (s.ip + 1) { s with a := wrap16 (sval s.a * 2 ^ n) }) ∧
    exec (.sdn (some n)) s =
      .next (finished s (s.ip + 1) { s with a := wrap16 (Int.fdiv (sval s.a) (2 ^ n)) }) ∧
    exec (.sup none) s = .next (faulted s .indexFault .missingArg) ∧
    exec (.sdn none) s = .next (faulted s .indexFault .missingArg) ∧
    wrap16 (sval s.a * 2 ^ n) = s.a <<< n ∧
    wrap16 (Int.fdiv (sval s.a) (2 ^ n)) = s.a.sshiftRight n ∧
    (∀ arg, (Instr.sup arg).opcode = 13#5 ∧ (Instr.sdn arg).opcode = 14#5)

/-- R175, R176, D7: what a long shift leaves. -/
def Obligations.LongShiftsLeaveZeroOrSign : Prop :=
  ∀ (a : Word) (n : Nat), (16 ≤ n → shiftUp a n = 0#16) ∧
    (15 ≤ n → shiftDown a n = if sval a < 0 then 0xFFFF#16 else 0#16)

/-- R179: addition, subtraction and multiplication are those of the integers modulo 2^16. -/
def Obligations.ArithmeticIsModuloTwoToSixteen : Prop :=
  ∀ a b : Word,
    uval (aluAdd a b) = (uval a + uval b) % 65536 ∧
    (uval (aluSub a b) + uval b) % 65536 = uval a ∧
    uval (aluMul a b) = uval a * uval b % 65536 ∧
    uval (aluIncrement b) = (uval b + 1) % 65536

/-- R179: `ADD` followed by `SUB` restores `a`, and nothing but the pointer, the counter and the run
flag differs. -/
def Obligations.AddThenSubRestores : Prop :=
  ∀ (arg arg' : Option Nat) (s : State), ∃ t u, exec (.add arg) s = .next t ∧
    exec (.sub arg') t = .next u ∧
    u = { s with ip := u.ip, clockCycle := u.clockCycle, running := u.running }

/-! ### Bank windower -/

/-- R200, R202: `RW` writes `a` to window word `b mod 16` and `RR` reads it; `ram` and the loaded bank
stay. Right after an `RW`, an `RR` with the same index reads what was written. -/
def Obligations.WindowReadsAndWrites : Prop :=
  ∀ (arg : Option Nat) (s : State),
    exec (.rw arg) s = .next (finished s (s.ip + 1)
      { s with loadedBank := s.loadedBank.set (windowIndex s.b) s.a }) ∧
    exec (.rr arg) s = .next (finished s (s.ip + 1) { s with a := s.loadedBank[windowIndex s.b] }) ∧
    (windowIndex s.b).val = uval s.b % 16 ∧
    (∀ x b' : Word, windowIndex b' = windowIndex s.b → ∃ t u, exec (.rw arg) s = .next t ∧
      exec (.rr arg) { t with a := x, b := b' } = .next u ∧ u.a = s.a) ∧
    (Instr.rw arg).opcode = 17#5 ∧ (Instr.rr arg).opcode = 18#5

/-- R204, R205: `RC` to another bank writes the window back, loads the new bank and records it; to the
loaded bank it does the common step actions only. -/
def Obligations.BankChangeWritesBackAndReloads : Prop :=
  ∀ (arg : Option Nat) (s : State),
    ((targetBank s.b).val : Int) = sval s.b / 16 % 64 ∧
    (targetBank s.b).val = (s.b.extractLsb' 4 6).toNat ∧ (Instr.rc arg).opcode = 19#5 ∧
    (targetBank s.b = s.loadedBankIndex → exec (.rc arg) s = .next (finished s (s.ip + 1) s)) ∧
    (targetBank s.b ≠ s.loadedBankIndex → ∃ (ram : Memory) (window : Vector Word 16),
      exec (.rc arg) s = .next (finished s (s.ip + 1)
        { s with ram := ram, loadedBank := window, loadedBankIndex := targetBank s.b }) ∧
      (∀ k, ram.read k =
        if h : 16 * s.loadedBankIndex.val ≤ k ∧ k < 16 * s.loadedBankIndex.val + 16 then
          s.loadedBank[k - 16 * s.loadedBankIndex.val] else s.ram.read k) ∧
      ∀ j (h : j < 16), window[j] = s.ram.read (16 * (targetBank s.b).val + j))

/-- R52: the window index and the target bank are the bit fields `b[3:0]` and `b[9:4]`, for every `b`,
negative ones too. -/
def Obligations.BankFieldsOfB : Prop :=
  ∀ b : Word, (windowIndex b).val = (b.extractLsb' 0 4).toNat ∧
    (targetBank b).val = (b.extractLsb' 4 6).toNat

/-- R37, R206, R208: the value a program finds for a word of a bank is changed by no instruction but
`RW`, and by `RW` only for the word of the loaded bank that `b` names. -/
def Obligations.EffectiveRamChangesOnlyByWindowWrites : Prop :=
  ∀ (i : Instr) (s t : State), exec i s = .next t → ∀ (k : Fin 64) (j : Fin 16),
    ((∃ arg, i = .rw arg) → t.effRam k j =
      if k = s.loadedBankIndex ∧ j = windowIndex s.b then s.a else s.effRam k j) ∧
    ((∀ arg, i ≠ .rw arg) → t.effRam k j = s.effRam k j)

/-- R208: a bank change and a change back restore the window. -/
def Obligations.BankChangeAndBackRestoresTheWindow : Prop :=
  ∀ (arg arg' : Option Nat) (s : State) (b' : Word), targetBank b' = s.loadedBankIndex →
    ∃ t u, exec (.rc arg) s = .next t ∧ exec (.rc arg') { t with b := b' } = .next u ∧
      u.loadedBank = s.loadedBank ∧ u.loadedBankIndex = s.loadedBankIndex

/-- R27, R28, R29, R206: only `RC` writes `ram` and the bank index, only `RC` and `RW` the window. -/
def Obligations.BankStateHasItsWriters : Prop :=
  ∀ (i : Instr) (s t : State), exec i s = .next t →
    (t.ram ≠ s.ram ∨ t.loadedBankIndex ≠ s.loadedBankIndex → ∃ arg, i = .rc arg) ∧
    (t.loadedBank ≠ s.loadedBank → ∃ arg, i = .rc arg ∨ i = .rw arg)

/-! ### Control transfer -/

/-- R220: `JMP n` sets the pointer to `n`. -/
def Obligations.JumpSetsThePointer : Prop :=
  ∀ (s : State) (n : Nat), exec (.jmp (some n)) s = .next (finished s n s) ∧
    exec (.jmp none) s = .next (faulted s .indexFault .missingArg) ∧
    (∀ arg, (Instr.jmp arg).opcode = 20#5)

/-- R221 to R226: the conditional jumps compare `a` and `b` as signed values and write nothing but the
pointer. Without an argument they fault, taken or not. -/
def Obligations.ConditionalJumpsCompareSigned : Prop :=
  ∀ (s : State) (n : Nat),
    exec (.je (some n)) s = .next (finished s (if sval s.a = sval s.b then n else s.ip + 1) s) ∧
    exec (.jne (some n)) s = .next (finished s (if sval s.a = sval s.b then s.ip + 1 else n) s) ∧
    exec (.jg (some n)) s = .next (finished s (if sval s.b < sval s.a then n else s.ip + 1) s) ∧
    exec (.jl (some n)) s = .next (finished s (if sval s.a < sval s.b then n else s.ip + 1) s) ∧
    exec (.jge (some n)) s = .next (finished s (if sval s.a < sval s.b then s.ip + 1 else n) s) ∧
    exec (.jle (some n)) s = .next (finished s (if sval s.b < sval s.a then s.ip + 1 else n) s) ∧
    (∀ i ∈ [Instr.je none, .jne none, .jg none, .jl none, .jge none, .jle none],
      exec i s = .next (faulted s .indexFault .missingArg)) ∧
    (∀ arg, (Instr.je arg).opcode = 21#5 ∧ (Instr.jne arg).opcode = 22#5 ∧
      (Instr.jg arg).opcode = 23#5 ∧ (Instr.jl arg).opcode = 24#5 ∧
      (Instr.jge arg).opcode = 25#5 ∧ (Instr.jle arg).opcode = 26#5)

/-- R227: from a pointer inside the program, a step that ends with the pointer at or past its end has
raised no fault, halts the machine and returns the sentinel: by a taken jump and by the fall through of
a jump not taken, as by any other instruction. -/
def Obligations.RunOffHaltsWithoutFault : Prop :=
  ∀ s t : State, s.faultKind = .none → s.ip < s.program.length → step s = .next t →
    s.program.length ≤ t.ip →
      t.faultKind = .none ∧ t.running = false ∧ stepReturns s = some (.text ⟨"", none⟩)

/-! ### Reset and fault codes -/

/-- R38, R270: what a reset leaves (values the spec chose, D10, D11; the parameters and `freeDraws` are
the model's own, logs 2 and 7). A program of words leaves the same but the program and the run flag
(log 20). -/
def Obligations.ResetValues : Prop :=
  ∀ (p : Params) (text : String),
    let s := hostReset p text
    s.program = (parseText text).map .text ∧ s.ip = 0 ∧ s.clockCycle = 0 ∧ s.a = 0#16 ∧ s.b = 0#16 ∧
    (∀ i : Fin 32, s.cacheSlots[i] = 0#16) ∧ (∀ k, s.ram.read k = 0#16) ∧ s.loadedBankIndex = 0 ∧
    (∀ j : Fin 16, s.loadedBank[j] = s.ram.read j) ∧ (∀ i : Fin 8, s.inputs[i] = 0#16) ∧
    (s.running = true ↔ parseText text ≠ []) ∧ s.outHistory = [] ∧
    (∀ x y : Fin 64, s.screen[x][y] = false ∧ s.screenbuffer[x][y] = false) ∧
    s.faultKind = .none ∧ s.faultReason = .none ∧ s.faultIp = 0 ∧
    State.reset = hostReset Params.default "" ∧
    ∀ words : List (BitVec 32), hostResetWords p words =
      { hostReset p "" with program := words.map .word, running := decide (words ≠ []) }

/-- R30, R241: the codes of the fault status, and the kind and reason of each fault. -/
def Obligations.FaultCodes : Prop :=
  FaultKind.none.code = 0 ∧ FaultKind.indexFault.code = 1 ∧ FaultKind.displayProtocolFault.code = 2 ∧
  FaultKind.illegalInstruction.code = 3 ∧ FaultReason.none.code = 0 ∧ FaultReason.missingArg.code = 1 ∧
  FaultReason.inputRange.code = 2 ∧ FaultReason.fetchRange.code = 3 ∧
  Raise.missingArg.kind = .indexFault ∧ Raise.missingArg.reason = .missingArg ∧
  Raise.inputRange.kind = .indexFault ∧ Raise.inputRange.reason = .inputRange ∧
  Raise.fetchRange.kind = .indexFault ∧ Raise.fetchRange.reason = .fetchRange ∧
  Raise.displayProtocolFault.kind = .displayProtocolFault ∧ Raise.displayProtocolFault.reason = .none ∧
  Raise.illegalInstruction.kind = .illegalInstruction ∧ Raise.illegalInstruction.reason = .none

/-- R274, R281, R282: the host's writes change one field each, and a step sees them. -/
def Obligations.HostWritesAreSeenByTheNextStep : Prop :=
  (∀ (s : State) (i : Fin 8) (v : Word),
    hostAct (.writeInput i v) s = .next { s with inputs := s.inputs.set i v } ∧
    exec (.la (some (32 + i.val))) (hostWriteInput i v s) = .next (finished s (s.ip + 1)
      { s with inputs := s.inputs.set i v, a := v })) ∧
  (∀ (s : State) (program : List ProgramEntry),
    hostAct (.writeProgram program) s = .next { s with program := program } ∧
    (s.running = true → ∀ h : s.ip < program.length,
      step (hostWriteProgram program s) = exec (decodeEntry program[s.ip]) { s with program := program }) ∧
    (s.running = true → program.length ≤ s.ip →
      step (hostWriteProgram program s) = .next (faulted { s with program := program } .indexFault .fetchRange)))
end

