-- ==== Sys2Proof/Laws/PerInstr.lean ====
section
/-! SUPPORT. The families of statements made per instruction: one lemma per constructor of `Instr`. -/

namespace Sys2Proof.Laws.OpcodeArg

/-- R76, R79: an instruction is the one its opcode number and its argument name. -/
def Statement (i : Instr) : Prop := instrOfOpcode i.opcode i.arg = i

theorem la (arg : Option Nat) : Statement (.la arg) := rfl
theorem lb (arg : Option Nat) : Statement (.lb arg) := rfl
theorem lal (arg : Option Nat) : Statement (.lal arg) := rfl
theorem lbl (arg : Option Nat) : Statement (.lbl arg) := rfl
theorem lah (arg : Option Nat) : Statement (.lah arg) := rfl
theorem lbh (arg : Option Nat) : Statement (.lbh arg) := rfl
theorem sva (arg : Option Nat) : Statement (.sva arg) := rfl
theorem stp (arg : Option Nat) : Statement (.stp arg) := rfl
theorem add (arg : Option Nat) : Statement (.add arg) := rfl
theorem sub (arg : Option Nat) : Statement (.sub arg) := rfl
theorem and (arg : Option Nat) : Statement (.and arg) := rfl
theorem or (arg : Option Nat) : Statement (.or arg) := rfl
theorem xor (arg : Option Nat) : Statement (.xor arg) := rfl
theorem sup (arg : Option Nat) : Statement (.sup arg) := rfl
theorem sdn (arg : Option Nat) : Statement (.sdn arg) := rfl
theorem mul (arg : Option Nat) : Statement (.mul arg) := rfl
theorem inb (arg : Option Nat) : Statement (.inb arg) := rfl
theorem rw (arg : Option Nat) : Statement (.rw arg) := rfl
theorem rr (arg : Option Nat) : Statement (.rr arg) := rfl
theorem rc (arg : Option Nat) : Statement (.rc arg) := rfl
theorem jmp (arg : Option Nat) : Statement (.jmp arg) := rfl
theorem je (arg : Option Nat) : Statement (.je arg) := rfl
theorem jne (arg : Option Nat) : Statement (.jne arg) := rfl
theorem jg (arg : Option Nat) : Statement (.jg arg) := rfl
theorem jl (arg : Option Nat) : Statement (.jl arg) := rfl
theorem jge (arg : Option Nat) : Statement (.jge arg) := rfl
theorem jle (arg : Option Nat) : Statement (.jle arg) := rfl
theorem reserved27 (arg : Option Nat) : Statement (.reserved27 arg) := rfl
theorem reserved28 (arg : Option Nat) : Statement (.reserved28 arg) := rfl
theorem reserved29 (arg : Option Nat) : Statement (.reserved29 arg) := rfl
theorem unknown (arg : Option Nat) : Statement (.unknown arg) := rfl
theorem nop (arg : Option Nat) : Statement (.nop arg) := rfl

end Sys2Proof.Laws.OpcodeArg
end

