-- ==== Sys2Proof/Laws/Decode.lean ====
section
/-! SUPPORT. The laws of the opcode map, of the fields of a W32 word and of the text level's small
functions. -/

namespace Sys2Proof

/-! ### The opcode map -/

theorem instrOfOpcode_opcode (i : Instr) : instrOfOpcode i.opcode i.arg = i := by
  cases i <;> rfl

theorem opcode_instrOfOpcode (op : BitVec 5) (arg : Option Nat) :
    (instrOfOpcode op arg).opcode = op := by
  obtain ⟨n, h⟩ := op
  interval_cases n <;> rfl

theorem arg_instrOfOpcode (op : BitVec 5) (arg : Option Nat) : (instrOfOpcode op arg).arg = arg := by
  obtain ⟨n, h⟩ := op
  interval_cases n <;> rfl

/-! ### The fields of a W32 word -/

theorem opField_packWord (op : BitVec 5) (arg : Option Nat) : opField (packWord op arg) = op := by
  apply BitVec.eq_of_getLsbD_eq
  intro i hi
  simp only [opField, packWord, BitVec.getLsbD_extractLsb', BitVec.getLsbD_append, hi, decide_true,
    Bool.true_and]
  rw [if_neg (by omega), if_neg (by omega)]
  congr 1
  omega

theorem presentBit_packWord (op : BitVec 5) (arg : Option Nat) :
    presentBit (packWord op arg) = arg.isSome := by
  simp only [presentBit, packWord, BitVec.getLsbD_append]
  cases arg.isSome <;> rfl

theorem argField_packWord (op : BitVec 5) (arg : Option Nat) :
    argField (packWord op arg) = BitVec.ofNat 26 (arg.getD 0) := by
  apply BitVec.eq_of_getLsbD_eq
  intro i hi
  simp only [argField, packWord, BitVec.getLsbD_extractLsb', BitVec.getLsbD_append, hi, decide_true,
    Bool.true_and, Nat.zero_add, if_true]

/-- R71, R76: the argument of a word is the one it was made with, when it fits. -/
theorem wordArg_packWord (op : BitVec 5) {arg : Option Nat} (h : argFits arg) :
    wordArg (packWord op arg) = arg := by
  unfold wordArg
  rw [presentBit_packWord, argField_packWord]
  cases arg with
  | none => rfl
  | some n =>
    have : n < 67108864 := h n rfl
    simp; omega

/-- R71: a word is made of its three fields, when `ARG` is 0 where `P` is 0. -/
theorem packWord_fields (w : BitVec 32) (h : presentBit w = false → argField w = 0#26) :
    packWord (opField w) (wordArg w) = w := by
  apply BitVec.eq_of_getLsbD_eq
  intro i hi
  have harg : BitVec.ofNat 26 ((wordArg w).getD 0) = argField w := by
    unfold wordArg
    by_cases hp : presentBit w
    · simp [hp]
    · simp [hp, h (by simpa using hp)]
  have hsome : (wordArg w).isSome = presentBit w := by
    unfold wordArg; by_cases hp : presentBit w <;> simp [hp]
  simp only [packWord, harg, hsome, BitVec.getLsbD_append]
  by_cases h1 : i < 26
  · simp [h1, argField]
  · by_cases h2 : i = 26
    · subst h2; simp [presentBit]
    · have h4 : ¬ i - 26 < 1 := by omega
      simp only [if_neg h1, if_neg h4, opField, BitVec.getLsbD_extractLsb']
      rw [decide_eq_true (by omega : i - 26 - 1 < 5), Bool.true_and]
      congr 1
      omega

/-! ### Text -/

theorem tokens_nil : tokens [] = [] := rfl

theorem tokens_cons_space {c : Char} (h : isSpaceChar c = true) (cs : List Char) :
    tokens (c :: cs) = tokens cs := by
  rw [tokens.eq_def]; simp [h]

theorem tokens_singleton {c : Char} (h : isSpaceChar c = false) : tokens [c] = [[c]] := by
  rw [tokens.eq_def]; simp [h]

theorem tokens_cons_cons {c d : Char} (h : isSpaceChar c = false) (ds : List Char) :
    tokens (c :: d :: ds) = match tokens (d :: ds) with
      | [] => [[c]]
      | t :: ts => if isSpaceChar d then [c] :: t :: ts else (c :: t) :: ts := by
  rw [tokens.eq_def]
  simp only [h, Bool.false_eq_true, if_false]
  cases tokens (d :: ds) <;> rfl

/-- A token holds no white space and at least one character. -/
theorem tokens_spec (cs : List Char) :
    ∀ t ∈ tokens cs, t ≠ [] ∧ ∀ c ∈ t, isSpaceChar c = false := by
  induction cs with
  | nil => simp [tokens_nil]
  | cons c cs ih =>
    by_cases hc : isSpaceChar c = true
    · rwa [tokens_cons_space hc]
    · have hc : isSpaceChar c = false := by simpa using hc
      rcases cs with _ | ⟨d, ds⟩
      · simp [tokens_singleton hc, hc]
      · rw [tokens_cons_cons hc]
        generalize tokens (d :: ds) = tk at ih
        rcases tk with _ | ⟨t, ts⟩
        · simp [hc]
        · simp only [List.mem_cons, forall_eq_or_imp] at ih
          by_cases hd : isSpaceChar d = true
          · simpa [hd, hc] using ih
          · simp only [hd, if_false, List.mem_cons, forall_eq_or_imp, Bool.false_eq_true]
            exact ⟨⟨by simp, hc, ih.1.2⟩, ih.2⟩

/-- A word without white space is one token. -/
theorem tokens_word {t : List Char} (hne : t ≠ []) (h : ∀ c ∈ t, isSpaceChar c = false) :
    tokens t = [t] := by
  induction t with
  | nil => exact absurd rfl hne
  | cons c cs ih =>
    have hc := h c (by simp)
    rcases cs with _ | ⟨d, ds⟩
    · exact tokens_singleton hc
    · have hd := h d (by simp)
      have ih := ih (by simp) fun e he => h e (by simp [he])
      simp [tokens_cons_cons hc, ih, hd]

/-- A word, a space, and a line with a token: the word is the first token. -/
theorem tokens_word_space {t cs : List Char} (hne : t ≠ []) (h : ∀ c ∈ t, isSpaceChar c = false)
    (hcs : tokens cs ≠ []) : tokens (t ++ ' ' :: cs) = t :: tokens cs := by
  induction t with
  | nil => exact absurd rfl hne
  | cons c t ih =>
    have hc := h c (by simp)
    have hsp : isSpaceChar ' ' = true := rfl
    rcases t with _ | ⟨d, ds⟩
    · rw [List.cons_append, List.nil_append, tokens_cons_cons hc, tokens_cons_space hsp]
      generalize tokens cs = tk at hcs
      rcases tk with _ | ⟨u, us⟩
      · exact absurd rfl hcs
      · simp [hsp]
    · have hd := h d (by simp)
      have ih := ih (by simp) fun e he => h e (by simp [he])
      rw [List.cons_append] at ih
      rw [List.cons_append, List.cons_append, tokens_cons_cons hc, ih]
      simp [hd]

/-! ### Decimal literals -/

theorem isDigitChar_digit {k : Nat} (h : k < 10) : isDigitChar (Char.ofNat (48 + k)) = true := by
  interval_cases k <;> rfl

theorem toNat_digit {k : Nat} (h : k < 10) : (Char.ofNat (48 + k)).toNat - 48 = k := by
  interval_cases k <;> rfl

theorem isSpaceChar_digit {c : Char} (h : isDigitChar c = true) : isSpaceChar c = false := by
  simp only [isDigitChar, Bool.and_eq_true, decide_eq_true_eq] at h
  have hc : c ≠ ' ' := by rintro rfl; simp at h
  simp only [isSpaceChar, hc, decide_false, Bool.false_or, Bool.and_eq_false_iff,
    decide_eq_false_iff_not]
  omega

theorem digitsAux_ne_nil (fuel n : Nat) : digitsAux (fuel + 1) n ≠ [] := by
  unfold digitsAux; split <;> simp

theorem digitsAux_digits (fuel n : Nat) : ∀ c ∈ digitsAux fuel n, isDigitChar c = true := by
  induction fuel generalizing n with
  | zero => simp [digitsAux]
  | succ fuel ih =>
    unfold digitsAux
    split
    · next h => simpa using isDigitChar_digit h
    · intro c hc
      rcases List.mem_append.mp hc with hc | hc
      · exact ih _ c hc
      · rw [List.mem_singleton.mp hc]; exact isDigitChar_digit (Nat.mod_lt _ (by decide))

theorem decimalValue_append (t : List Char) (c : Char) :
    decimalValue (t ++ [c]) = 10 * decimalValue t + (c.toNat - 48) := by
  simp [decimalValue]

theorem decimalValue_digitsAux (fuel n : Nat) (h : n < fuel) : decimalValue (digitsAux fuel n) = n := by
  induction fuel generalizing n with
  | zero => omega
  | succ fuel ih =>
    unfold digitsAux
    split
    · next hn => simp [decimalValue, toNat_digit hn]
    · rw [decimalValue_append, ih _ (by omega), toNat_digit (Nat.mod_lt _ (by decide))]
      omega

/-- R75: the decimal digits of a number are a valid literal with that value. -/
theorem tokenArg_decimalDigits (n : Nat) : tokenArg (decimalDigits n) = n := by
  have hne := digitsAux_ne_nil n n
  have hall := digitsAux_digits (n + 1) n
  unfold tokenArg decimalDigits
  rw [if_pos (by simpa [isDecimalLiteral, hne] using hall), decimalValue_digitsAux _ _ (by omega)]

end Sys2Proof
end

