-- ==== Sys2Proof/Laws/Memory.lean ====
section
/-! SUPPORT. The laws of `ram`: a read after a write, a block write and a bank read, and that every
memory operation keeps the canonical form. -/

namespace Sys2Proof.Machine

@[simp] theorem Memory.read_nil (i : Nat) : Memory.read [] i = ramDefault := rfl

theorem Memory.read_cons (c : Nat × Word) (m : Memory) (i : Nat) :
    Memory.read (c :: m) i = if i = c.1 then c.2 else Memory.read m i := by
  obtain ⟨k, v⟩ := c
  by_cases h : i = k
  · simp [Memory.read, h]
  · have hb : (i == k) = false := by simpa using h
    simp [Memory.read, List.lookup_cons, h, hb]

theorem Memory.eraseCell_cons (c : Nat × Word) (m : Memory) (i : Nat) :
    Memory.eraseCell (c :: m) i = if c.1 = i then Memory.eraseCell m i else c :: Memory.eraseCell m i := by
  by_cases h : c.1 = i <;> simp [Memory.eraseCell, h]

theorem Memory.read_eraseCell (m : Memory) (i j : Nat) :
    (m.eraseCell i).read j = if j = i then ramDefault else m.read j := by
  induction m with
  | nil => simp [Memory.eraseCell]
  | cons c m ih =>
    rw [Memory.eraseCell_cons]
    split
    · next h => rw [ih]; split
                · rfl
                · next hj => rw [Memory.read_cons, if_neg (by omega)]
    · next h =>
      rw [Memory.read_cons, Memory.read_cons, ih]
      split <;> split <;> first | rfl | omega

theorem Memory.read_insertCell (m : Memory) (i j : Nat) (v : Word)
    (h : ∀ c ∈ m, c.1 ≠ i) :
    (m.insertCell i v).read j = if j = i then v else m.read j := by
  induction m with
  | nil => simp [Memory.insertCell, Memory.read_cons]
  | cons c m ih =>
    have hc : c.1 ≠ i := h c (by simp)
    have ih := ih fun d hd => h d (by simp [hd])
    unfold Memory.insertCell
    split
    · rw [Memory.read_cons, Memory.read_cons, ih]
      split <;> split <;> first | rfl | omega
    · rw [Memory.read_cons]

theorem Memory.fst_ne_of_mem_eraseCell {m : Memory} {i : Nat} {c : Nat × Word}
    (h : c ∈ m.eraseCell i) : c.1 ≠ i := by
  simpa using (List.mem_filter.mp h).2

/-- A read after a write, of every memory, canonical or not. -/
theorem Memory.read_write (m : Memory) (i j : Nat) (v : Word) :
    (m.write i v).read j = if j = i then v else m.read j := by
  unfold Memory.write
  split
  · next h => rw [Memory.read_eraseCell, h]
  · rw [Memory.read_insertCell _ _ _ _ fun c hc => Memory.fst_ne_of_mem_eraseCell hc,
      Memory.read_eraseCell]
    split <;> rfl

@[simp] theorem Memory.read_write_same (m : Memory) (i : Nat) (v : Word) :
    (m.write i v).read i = v := by simp [Memory.read_write]

theorem Memory.read_write_other (m : Memory) {i j : Nat} (v : Word) (h : j ≠ i) :
    (m.write i v).read j = m.read j := by simp [Memory.read_write, h]

/-- What a block write leaves in each word. -/
theorem Memory.read_writeBlock (vs : List Word) (m : Memory) (base j : Nat) :
    (m.writeBlock base vs).read j =
      if h : base ≤ j ∧ j < base + vs.length then vs[j - base]'(by omega) else m.read j := by
  induction vs generalizing m base with
  | nil => simp [Memory.writeBlock]
  | cons v vs ih =>
    unfold Memory.writeBlock
    rw [ih]
    by_cases hj : j = base
    · subst hj
      rw [dif_neg (by omega), dif_pos (by simp)]
      simp
    · rw [Memory.read_write_other _ _ hj]
      by_cases hin : base + 1 ≤ j ∧ j < base + 1 + vs.length
      · have : j - base = (j - (base + 1)) + 1 := by omega
        rw [dif_pos hin, dif_pos (by simp; omega)]
        simp [this]
      · rw [dif_neg hin, dif_neg (by simp; omega)]

@[simp] theorem Memory.readBank_getElem (m : Memory) (bank : Fin 64) (j : Nat) (h : j < 16) :
    (m.readBank bank)[j] = m.read (16 * bank.val + j) := by
  simp [Memory.readBank]

/-! ### The canonical form -/

theorem Memory.wf_nil : Memory.wf [] := by decide

theorem Memory.mem_insertCell {m : Memory} {i : Nat} {v : Word} {c : Nat × Word}
    (h : c ∈ m.insertCell i v) : c = (i, v) ∨ c ∈ m := by
  induction m with
  | nil => simpa [Memory.insertCell] using h
  | cons d m ih =>
    unfold Memory.insertCell at h
    split at h
    · rcases List.mem_cons.mp h with rfl | h
      · simp
      · rcases ih h with h | h <;> simp [h]
    · rcases List.mem_cons.mp h with h | h
      · exact .inl h
      · exact .inr h

theorem Memory.wf_eraseCell {m : Memory} (i : Nat) (h : m.wf) : (m.eraseCell i).wf :=
  ⟨h.1.filter _, fun c hc => h.2 c (List.mem_filter.mp hc).1⟩

theorem Memory.wf_insertCell {m : Memory} {i : Nat} {v : Word} (h : m.wf) (hi : i < ramWords)
    (hv : v ≠ ramDefault) (hne : ∀ c ∈ m, c.1 ≠ i) : (m.insertCell i v).wf := by
  refine ⟨?_, fun c hc => ?_⟩
  · obtain ⟨hp, -⟩ := h
    induction m with
    | nil => simp [Memory.insertCell]
    | cons d m ih =>
      rw [List.pairwise_cons] at hp
      have hd : d.1 ≠ i := hne d (by simp)
      unfold Memory.insertCell
      split
      · next hlt =>
        refine List.pairwise_cons.mpr ⟨fun c hc => ?_, ih (fun e he => hne e (by simp [he])) hp.2⟩
        rcases Memory.mem_insertCell hc with rfl | hc
        · exact hlt
        · exact hp.1 c hc
      · next hlt =>
        refine List.pairwise_cons.mpr ⟨fun c hc => ?_, List.pairwise_cons.mpr hp⟩
        have hid : i < d.1 := by omega
        rcases List.mem_cons.mp hc with rfl | hc
        · exact hid
        · exact Nat.lt_trans hid (hp.1 c hc)
  · rcases Memory.mem_insertCell hc with rfl | hc
    · exact ⟨hi, hv⟩
    · exact h.2 c hc

theorem Memory.wf_write {m : Memory} {i : Nat} (v : Word) (h : m.wf) (hi : i < ramWords) :
    (m.write i v).wf := by
  unfold Memory.write
  split
  · exact Memory.wf_eraseCell i h
  · next hv =>
    exact Memory.wf_insertCell (Memory.wf_eraseCell i h) hi hv
      fun c hc => Memory.fst_ne_of_mem_eraseCell hc

theorem Memory.wf_writeBlock {m : Memory} (vs : List Word) {base : Nat} (h : m.wf)
    (hb : base + vs.length ≤ ramWords) : (m.writeBlock base vs).wf := by
  induction vs generalizing m base with
  | nil => exact h
  | cons v vs ih =>
    simp only [List.length_cons] at hb
    exact ih (Memory.wf_write v h (by omega)) (by omega)

/-- The write-back of the window keeps the canonical form: a bank lies inside `ram`. -/
theorem State.wf_writtenBack {s : State} (h : s.ram.wf) : s.writtenBack.wf :=
  Memory.wf_writeBlock _ h (by have := s.loadedBankIndex.isLt; simp [ramWords]; omega)

/-- R204: what the write-back leaves in word `j` of bank `k`. -/
theorem State.read_writtenBack (s : State) (k : Fin 64) (j : Fin 16) :
    s.writtenBack.read (16 * k.val + j.val) =
      if k = s.loadedBankIndex then s.loadedBank[j] else s.ram.read (16 * k.val + j.val) := by
  have hj := j.isLt
  unfold State.writtenBack
  rw [Memory.read_writeBlock]
  by_cases h : k = s.loadedBankIndex
  · subst h
    rw [dif_pos (by simp), if_pos rfl]
    simp
  · have : k.val ≠ s.loadedBankIndex.val := fun he => h (Fin.ext he)
    rw [dif_neg (by simp; omega), if_neg h]

end Sys2Proof.Machine
end

