-- ==== Sys2Proof/Laws/State.lean ====
section
/-! SUPPORT. What each named update of the state does to each field: one lemma per field per update. -/

namespace Sys2Proof.Machine

@[simp] theorem State.setA_program (s : State) (v : Word) : (s.setA v).program = s.program := rfl
@[simp] theorem State.setA_ip (s : State) (v : Word) : (s.setA v).ip = s.ip := rfl
@[simp] theorem State.setA_clockCycle (s : State) (v : Word) : (s.setA v).clockCycle = s.clockCycle :=
    rfl
@[simp] theorem State.setA_a (s : State) (v : Word) : (s.setA v).a = v := rfl
@[simp] theorem State.setA_b (s : State) (v : Word) : (s.setA v).b = s.b := rfl
@[simp] theorem State.setA_cacheSlots (s : State) (v : Word) : (s.setA v).cacheSlots = s.cacheSlots :=
    rfl
@[simp] theorem State.setA_ram (s : State) (v : Word) : (s.setA v).ram = s.ram := rfl
@[simp] theorem State.setA_loadedBank (s : State) (v : Word) : (s.setA v).loadedBank = s.loadedBank :=
    rfl
@[simp] theorem State.setA_loadedBankIndex (s : State) (v : Word) :
    (s.setA v).loadedBankIndex = s.loadedBankIndex := rfl
@[simp] theorem State.setA_running (s : State) (v : Word) : (s.setA v).running = s.running := rfl
@[simp] theorem State.setA_inputs (s : State) (v : Word) : (s.setA v).inputs = s.inputs := rfl
@[simp] theorem State.setA_outHistory (s : State) (v : Word) : (s.setA v).outHistory = s.outHistory :=
    rfl
@[simp] theorem State.setA_screen (s : State) (v : Word) : (s.setA v).screen = s.screen := rfl
@[simp] theorem State.setA_screenbuffer (s : State) (v : Word) : (s.setA v).screenbuffer = s.screenbuffer :=
    rfl
@[simp] theorem State.setA_faultKind (s : State) (v : Word) : (s.setA v).faultKind = s.faultKind :=
    rfl
@[simp] theorem State.setA_faultReason (s : State) (v : Word) : (s.setA v).faultReason = s.faultReason :=
    rfl
@[simp] theorem State.setA_faultIp (s : State) (v : Word) : (s.setA v).faultIp = s.faultIp := rfl
@[simp] theorem State.setA_params (s : State) (v : Word) : (s.setA v).params = s.params := rfl
@[simp] theorem State.setA_freeDraws (s : State) (v : Word) : (s.setA v).freeDraws = s.freeDraws :=
    rfl

@[simp] theorem State.setB_program (s : State) (v : Word) : (s.setB v).program = s.program := rfl
@[simp] theorem State.setB_ip (s : State) (v : Word) : (s.setB v).ip = s.ip := rfl
@[simp] theorem State.setB_clockCycle (s : State) (v : Word) : (s.setB v).clockCycle = s.clockCycle :=
    rfl
@[simp] theorem State.setB_a (s : State) (v : Word) : (s.setB v).a = s.a := rfl
@[simp] theorem State.setB_b (s : State) (v : Word) : (s.setB v).b = v := rfl
@[simp] theorem State.setB_cacheSlots (s : State) (v : Word) : (s.setB v).cacheSlots = s.cacheSlots :=
    rfl
@[simp] theorem State.setB_ram (s : State) (v : Word) : (s.setB v).ram = s.ram := rfl
@[simp] theorem State.setB_loadedBank (s : State) (v : Word) : (s.setB v).loadedBank = s.loadedBank :=
    rfl
@[simp] theorem State.setB_loadedBankIndex (s : State) (v : Word) :
    (s.setB v).loadedBankIndex = s.loadedBankIndex := rfl
@[simp] theorem State.setB_running (s : State) (v : Word) : (s.setB v).running = s.running := rfl
@[simp] theorem State.setB_inputs (s : State) (v : Word) : (s.setB v).inputs = s.inputs := rfl
@[simp] theorem State.setB_outHistory (s : State) (v : Word) : (s.setB v).outHistory = s.outHistory :=
    rfl
@[simp] theorem State.setB_screen (s : State) (v : Word) : (s.setB v).screen = s.screen := rfl
@[simp] theorem State.setB_screenbuffer (s : State) (v : Word) : (s.setB v).screenbuffer = s.screenbuffer :=
    rfl
@[simp] theorem State.setB_faultKind (s : State) (v : Word) : (s.setB v).faultKind = s.faultKind :=
    rfl
@[simp] theorem State.setB_faultReason (s : State) (v : Word) : (s.setB v).faultReason = s.faultReason :=
    rfl
@[simp] theorem State.setB_faultIp (s : State) (v : Word) : (s.setB v).faultIp = s.faultIp := rfl
@[simp] theorem State.setB_params (s : State) (v : Word) : (s.setB v).params = s.params := rfl
@[simp] theorem State.setB_freeDraws (s : State) (v : Word) : (s.setB v).freeDraws = s.freeDraws :=
    rfl

@[simp] theorem State.setIp_program (s : State) (n : Nat) : (s.setIp n).program = s.program := rfl
@[simp] theorem State.setIp_ip (s : State) (n : Nat) : (s.setIp n).ip = n := rfl
@[simp] theorem State.setIp_clockCycle (s : State) (n : Nat) : (s.setIp n).clockCycle = s.clockCycle :=
    rfl
@[simp] theorem State.setIp_a (s : State) (n : Nat) : (s.setIp n).a = s.a := rfl
@[simp] theorem State.setIp_b (s : State) (n : Nat) : (s.setIp n).b = s.b := rfl
@[simp] theorem State.setIp_cacheSlots (s : State) (n : Nat) : (s.setIp n).cacheSlots = s.cacheSlots :=
    rfl
@[simp] theorem State.setIp_ram (s : State) (n : Nat) : (s.setIp n).ram = s.ram := rfl
@[simp] theorem State.setIp_loadedBank (s : State) (n : Nat) : (s.setIp n).loadedBank = s.loadedBank :=
    rfl
@[simp] theorem State.setIp_loadedBankIndex (s : State) (n : Nat) :
    (s.setIp n).loadedBankIndex = s.loadedBankIndex := rfl
@[simp] theorem State.setIp_running (s : State) (n : Nat) : (s.setIp n).running = s.running := rfl
@[simp] theorem State.setIp_inputs (s : State) (n : Nat) : (s.setIp n).inputs = s.inputs := rfl
@[simp] theorem State.setIp_outHistory (s : State) (n : Nat) : (s.setIp n).outHistory = s.outHistory :=
    rfl
@[simp] theorem State.setIp_screen (s : State) (n : Nat) : (s.setIp n).screen = s.screen := rfl
@[simp] theorem State.setIp_screenbuffer (s : State) (n : Nat) :
    (s.setIp n).screenbuffer = s.screenbuffer := rfl
@[simp] theorem State.setIp_faultKind (s : State) (n : Nat) : (s.setIp n).faultKind = s.faultKind :=
    rfl
@[simp] theorem State.setIp_faultReason (s : State) (n : Nat) : (s.setIp n).faultReason = s.faultReason :=
    rfl
@[simp] theorem State.setIp_faultIp (s : State) (n : Nat) : (s.setIp n).faultIp = s.faultIp := rfl
@[simp] theorem State.setIp_params (s : State) (n : Nat) : (s.setIp n).params = s.params := rfl
@[simp] theorem State.setIp_freeDraws (s : State) (n : Nat) : (s.setIp n).freeDraws = s.freeDraws :=
    rfl

@[simp] theorem State.halt_program (s : State) : (s.halt).program = s.program := rfl
@[simp] theorem State.halt_ip (s : State) : (s.halt).ip = s.ip := rfl
@[simp] theorem State.halt_clockCycle (s : State) : (s.halt).clockCycle = s.clockCycle := rfl
@[simp] theorem State.halt_a (s : State) : (s.halt).a = s.a := rfl
@[simp] theorem State.halt_b (s : State) : (s.halt).b = s.b := rfl
@[simp] theorem State.halt_cacheSlots (s : State) : (s.halt).cacheSlots = s.cacheSlots := rfl
@[simp] theorem State.halt_ram (s : State) : (s.halt).ram = s.ram := rfl
@[simp] theorem State.halt_loadedBank (s : State) : (s.halt).loadedBank = s.loadedBank := rfl
@[simp] theorem State.halt_loadedBankIndex (s : State) : (s.halt).loadedBankIndex = s.loadedBankIndex :=
    rfl
@[simp] theorem State.halt_running (s : State) : (s.halt).running = false := rfl
@[simp] theorem State.halt_inputs (s : State) : (s.halt).inputs = s.inputs := rfl
@[simp] theorem State.halt_outHistory (s : State) : (s.halt).outHistory = s.outHistory := rfl
@[simp] theorem State.halt_screen (s : State) : (s.halt).screen = s.screen := rfl
@[simp] theorem State.halt_screenbuffer (s : State) : (s.halt).screenbuffer = s.screenbuffer := rfl
@[simp] theorem State.halt_faultKind (s : State) : (s.halt).faultKind = s.faultKind := rfl
@[simp] theorem State.halt_faultReason (s : State) : (s.halt).faultReason = s.faultReason := rfl
@[simp] theorem State.halt_faultIp (s : State) : (s.halt).faultIp = s.faultIp := rfl
@[simp] theorem State.halt_params (s : State) : (s.halt).params = s.params := rfl
@[simp] theorem State.halt_freeDraws (s : State) : (s.halt).freeDraws = s.freeDraws := rfl

@[simp] theorem State.writeCache_program (s : State) (i : Fin 32) (v : Word) :
    (s.writeCache i v).program = s.program := rfl
@[simp] theorem State.writeCache_ip (s : State) (i : Fin 32) (v : Word) : (s.writeCache i v).ip = s.ip :=
    rfl
@[simp] theorem State.writeCache_clockCycle (s : State) (i : Fin 32) (v : Word) :
    (s.writeCache i v).clockCycle = s.clockCycle := rfl
@[simp] theorem State.writeCache_a (s : State) (i : Fin 32) (v : Word) : (s.writeCache i v).a = s.a :=
    rfl
@[simp] theorem State.writeCache_b (s : State) (i : Fin 32) (v : Word) : (s.writeCache i v).b = s.b :=
    rfl
@[simp] theorem State.writeCache_cacheSlots (s : State) (i : Fin 32) (v : Word) :
    (s.writeCache i v).cacheSlots = s.cacheSlots.set i.val v i.isLt := rfl
@[simp] theorem State.writeCache_ram (s : State) (i : Fin 32) (v : Word) : (s.writeCache i v).ram = s.ram :=
    rfl
@[simp] theorem State.writeCache_loadedBank (s : State) (i : Fin 32) (v : Word) :
    (s.writeCache i v).loadedBank = s.loadedBank := rfl
@[simp] theorem State.writeCache_loadedBankIndex (s : State) (i : Fin 32) (v : Word) :
    (s.writeCache i v).loadedBankIndex = s.loadedBankIndex := rfl
@[simp] theorem State.writeCache_running (s : State) (i : Fin 32) (v : Word) :
    (s.writeCache i v).running = s.running := rfl
@[simp] theorem State.writeCache_inputs (s : State) (i : Fin 32) (v : Word) :
    (s.writeCache i v).inputs = s.inputs := rfl
@[simp] theorem State.writeCache_outHistory (s : State) (i : Fin 32) (v : Word) :
    (s.writeCache i v).outHistory = s.outHistory := rfl
@[simp] theorem State.writeCache_screen (s : State) (i : Fin 32) (v : Word) :
    (s.writeCache i v).screen = s.screen := rfl
@[simp] theorem State.writeCache_screenbuffer (s : State) (i : Fin 32) (v : Word) :
    (s.writeCache i v).screenbuffer = s.screenbuffer := rfl
@[simp] theorem State.writeCache_faultKind (s : State) (i : Fin 32) (v : Word) :
    (s.writeCache i v).faultKind = s.faultKind := rfl
@[simp] theorem State.writeCache_faultReason (s : State) (i : Fin 32) (v : Word) :
    (s.writeCache i v).faultReason = s.faultReason := rfl
@[simp] theorem State.writeCache_faultIp (s : State) (i : Fin 32) (v : Word) :
    (s.writeCache i v).faultIp = s.faultIp := rfl
@[simp] theorem State.writeCache_params (s : State) (i : Fin 32) (v : Word) :
    (s.writeCache i v).params = s.params := rfl
@[simp] theorem State.writeCache_freeDraws (s : State) (i : Fin 32) (v : Word) :
    (s.writeCache i v).freeDraws = s.freeDraws := rfl

@[simp] theorem State.writeWindow_program (s : State) (i : Fin 16) (v : Word) :
    (s.writeWindow i v).program = s.program := rfl
@[simp] theorem State.writeWindow_ip (s : State) (i : Fin 16) (v : Word) : (s.writeWindow i v).ip = s.ip :=
    rfl
@[simp] theorem State.writeWindow_clockCycle (s : State) (i : Fin 16) (v : Word) :
    (s.writeWindow i v).clockCycle = s.clockCycle := rfl
@[simp] theorem State.writeWindow_a (s : State) (i : Fin 16) (v : Word) : (s.writeWindow i v).a = s.a :=
    rfl
@[simp] theorem State.writeWindow_b (s : State) (i : Fin 16) (v : Word) : (s.writeWindow i v).b = s.b :=
    rfl
@[simp] theorem State.writeWindow_cacheSlots (s : State) (i : Fin 16) (v : Word) :
    (s.writeWindow i v).cacheSlots = s.cacheSlots := rfl
@[simp] theorem State.writeWindow_ram (s : State) (i : Fin 16) (v : Word) :
    (s.writeWindow i v).ram = s.ram := rfl
@[simp] theorem State.writeWindow_loadedBank (s : State) (i : Fin 16) (v : Word) :
    (s.writeWindow i v).loadedBank = s.loadedBank.set i.val v i.isLt := rfl
@[simp] theorem State.writeWindow_loadedBankIndex (s : State) (i : Fin 16) (v : Word) :
    (s.writeWindow i v).loadedBankIndex = s.loadedBankIndex := rfl
@[simp] theorem State.writeWindow_running (s : State) (i : Fin 16) (v : Word) :
    (s.writeWindow i v).running = s.running := rfl
@[simp] theorem State.writeWindow_inputs (s : State) (i : Fin 16) (v : Word) :
    (s.writeWindow i v).inputs = s.inputs := rfl
@[simp] theorem State.writeWindow_outHistory (s : State) (i : Fin 16) (v : Word) :
    (s.writeWindow i v).outHistory = s.outHistory := rfl
@[simp] theorem State.writeWindow_screen (s : State) (i : Fin 16) (v : Word) :
    (s.writeWindow i v).screen = s.screen := rfl
@[simp] theorem State.writeWindow_screenbuffer (s : State) (i : Fin 16) (v : Word) :
    (s.writeWindow i v).screenbuffer = s.screenbuffer := rfl
@[simp] theorem State.writeWindow_faultKind (s : State) (i : Fin 16) (v : Word) :
    (s.writeWindow i v).faultKind = s.faultKind := rfl
@[simp] theorem State.writeWindow_faultReason (s : State) (i : Fin 16) (v : Word) :
    (s.writeWindow i v).faultReason = s.faultReason := rfl
@[simp] theorem State.writeWindow_faultIp (s : State) (i : Fin 16) (v : Word) :
    (s.writeWindow i v).faultIp = s.faultIp := rfl
@[simp] theorem State.writeWindow_params (s : State) (i : Fin 16) (v : Word) :
    (s.writeWindow i v).params = s.params := rfl
@[simp] theorem State.writeWindow_freeDraws (s : State) (i : Fin 16) (v : Word) :
    (s.writeWindow i v).freeDraws = s.freeDraws := rfl

@[simp] theorem State.switchBank_program (s : State) (t : Fin 64) : (s.switchBank t).program = s.program :=
    rfl
@[simp] theorem State.switchBank_ip (s : State) (t : Fin 64) : (s.switchBank t).ip = s.ip := rfl
@[simp] theorem State.switchBank_clockCycle (s : State) (t : Fin 64) :
    (s.switchBank t).clockCycle = s.clockCycle := rfl
@[simp] theorem State.switchBank_a (s : State) (t : Fin 64) : (s.switchBank t).a = s.a := rfl
@[simp] theorem State.switchBank_b (s : State) (t : Fin 64) : (s.switchBank t).b = s.b := rfl
@[simp] theorem State.switchBank_cacheSlots (s : State) (t : Fin 64) :
    (s.switchBank t).cacheSlots = s.cacheSlots := rfl
@[simp] theorem State.switchBank_ram (s : State) (t : Fin 64) : (s.switchBank t).ram = s.writtenBack :=
    rfl
@[simp] theorem State.switchBank_loadedBank (s : State) (t : Fin 64) :
    (s.switchBank t).loadedBank = s.writtenBack.readBank t := rfl
@[simp] theorem State.switchBank_loadedBankIndex (s : State) (t : Fin 64) :
    (s.switchBank t).loadedBankIndex = t := rfl
@[simp] theorem State.switchBank_running (s : State) (t : Fin 64) : (s.switchBank t).running = s.running :=
    rfl
@[simp] theorem State.switchBank_inputs (s : State) (t : Fin 64) : (s.switchBank t).inputs = s.inputs :=
    rfl
@[simp] theorem State.switchBank_outHistory (s : State) (t : Fin 64) :
    (s.switchBank t).outHistory = s.outHistory := rfl
@[simp] theorem State.switchBank_screen (s : State) (t : Fin 64) : (s.switchBank t).screen = s.screen :=
    rfl
@[simp] theorem State.switchBank_screenbuffer (s : State) (t : Fin 64) :
    (s.switchBank t).screenbuffer = s.screenbuffer := rfl
@[simp] theorem State.switchBank_faultKind (s : State) (t : Fin 64) :
    (s.switchBank t).faultKind = s.faultKind := rfl
@[simp] theorem State.switchBank_faultReason (s : State) (t : Fin 64) :
    (s.switchBank t).faultReason = s.faultReason := rfl
@[simp] theorem State.switchBank_faultIp (s : State) (t : Fin 64) : (s.switchBank t).faultIp = s.faultIp :=
    rfl
@[simp] theorem State.switchBank_params (s : State) (t : Fin 64) : (s.switchBank t).params = s.params :=
    rfl
@[simp] theorem State.switchBank_freeDraws (s : State) (t : Fin 64) :
    (s.switchBank t).freeDraws = s.freeDraws := rfl

@[simp] theorem State.emit_program (s : State) (r : Fin 32) (v : Word) : (s.emit r v).program = s.program :=
    rfl
@[simp] theorem State.emit_ip (s : State) (r : Fin 32) (v : Word) : (s.emit r v).ip = s.ip := rfl
@[simp] theorem State.emit_clockCycle (s : State) (r : Fin 32) (v : Word) :
    (s.emit r v).clockCycle = s.clockCycle := rfl
@[simp] theorem State.emit_a (s : State) (r : Fin 32) (v : Word) : (s.emit r v).a = s.a := rfl
@[simp] theorem State.emit_b (s : State) (r : Fin 32) (v : Word) : (s.emit r v).b = s.b := rfl
@[simp] theorem State.emit_cacheSlots (s : State) (r : Fin 32) (v : Word) :
    (s.emit r v).cacheSlots = s.cacheSlots := rfl
@[simp] theorem State.emit_ram (s : State) (r : Fin 32) (v : Word) : (s.emit r v).ram = s.ram := rfl
@[simp] theorem State.emit_loadedBank (s : State) (r : Fin 32) (v : Word) :
    (s.emit r v).loadedBank = s.loadedBank := rfl
@[simp] theorem State.emit_loadedBankIndex (s : State) (r : Fin 32) (v : Word) :
    (s.emit r v).loadedBankIndex = s.loadedBankIndex := rfl
@[simp] theorem State.emit_running (s : State) (r : Fin 32) (v : Word) : (s.emit r v).running = s.running :=
    rfl
@[simp] theorem State.emit_inputs (s : State) (r : Fin 32) (v : Word) : (s.emit r v).inputs = s.inputs :=
    rfl
@[simp] theorem State.emit_outHistory (s : State) (r : Fin 32) (v : Word) :
    (s.emit r v).outHistory = s.outHistory ++ [(r, v)] := rfl
@[simp] theorem State.emit_screen (s : State) (r : Fin 32) (v : Word) : (s.emit r v).screen = s.screen :=
    rfl
@[simp] theorem State.emit_screenbuffer (s : State) (r : Fin 32) (v : Word) :
    (s.emit r v).screenbuffer = s.screenbuffer := rfl
@[simp] theorem State.emit_faultKind (s : State) (r : Fin 32) (v : Word) :
    (s.emit r v).faultKind = s.faultKind := rfl
@[simp] theorem State.emit_faultReason (s : State) (r : Fin 32) (v : Word) :
    (s.emit r v).faultReason = s.faultReason := rfl
@[simp] theorem State.emit_faultIp (s : State) (r : Fin 32) (v : Word) : (s.emit r v).faultIp = s.faultIp :=
    rfl
@[simp] theorem State.emit_params (s : State) (r : Fin 32) (v : Word) : (s.emit r v).params = s.params :=
    rfl
@[simp] theorem State.emit_freeDraws (s : State) (r : Fin 32) (v : Word) :
    (s.emit r v).freeDraws = s.freeDraws := rfl

@[simp] theorem State.advance_program (s : State) : (s.advance).program = s.program := rfl
@[simp] theorem State.advance_ip (s : State) : (s.advance).ip = s.ip + 1 := rfl
@[simp] theorem State.advance_clockCycle (s : State) : (s.advance).clockCycle = s.clockCycle := rfl
@[simp] theorem State.advance_a (s : State) : (s.advance).a = s.a := rfl
@[simp] theorem State.advance_b (s : State) : (s.advance).b = s.b := rfl
@[simp] theorem State.advance_cacheSlots (s : State) : (s.advance).cacheSlots = s.cacheSlots := rfl
@[simp] theorem State.advance_ram (s : State) : (s.advance).ram = s.ram := rfl
@[simp] theorem State.advance_loadedBank (s : State) : (s.advance).loadedBank = s.loadedBank := rfl
@[simp] theorem State.advance_loadedBankIndex (s : State) :
    (s.advance).loadedBankIndex = s.loadedBankIndex := rfl
@[simp] theorem State.advance_running (s : State) : (s.advance).running = s.running := rfl
@[simp] theorem State.advance_inputs (s : State) : (s.advance).inputs = s.inputs := rfl
@[simp] theorem State.advance_outHistory (s : State) : (s.advance).outHistory = s.outHistory := rfl
@[simp] theorem State.advance_screen (s : State) : (s.advance).screen = s.screen := rfl
@[simp] theorem State.advance_screenbuffer (s : State) : (s.advance).screenbuffer = s.screenbuffer :=
    rfl
@[simp] theorem State.advance_faultKind (s : State) : (s.advance).faultKind = s.faultKind := rfl
@[simp] theorem State.advance_faultReason (s : State) : (s.advance).faultReason = s.faultReason :=
    rfl
@[simp] theorem State.advance_faultIp (s : State) : (s.advance).faultIp = s.faultIp := rfl
@[simp] theorem State.advance_params (s : State) : (s.advance).params = s.params := rfl
@[simp] theorem State.advance_freeDraws (s : State) : (s.advance).freeDraws = s.freeDraws := rfl

@[simp] theorem State.tick_program (s : State) : (s.tick).program = s.program := rfl
@[simp] theorem State.tick_ip (s : State) : (s.tick).ip = s.ip := rfl
@[simp] theorem State.tick_clockCycle (s : State) :
    (s.tick).clockCycle = Params.nextCycle s.params s.clockCycle := rfl
@[simp] theorem State.tick_a (s : State) : (s.tick).a = s.a := rfl
@[simp] theorem State.tick_b (s : State) : (s.tick).b = s.b := rfl
@[simp] theorem State.tick_cacheSlots (s : State) : (s.tick).cacheSlots = s.cacheSlots := rfl
@[simp] theorem State.tick_ram (s : State) : (s.tick).ram = s.ram := rfl
@[simp] theorem State.tick_loadedBank (s : State) : (s.tick).loadedBank = s.loadedBank := rfl
@[simp] theorem State.tick_loadedBankIndex (s : State) : (s.tick).loadedBankIndex = s.loadedBankIndex :=
    rfl
@[simp] theorem State.tick_running (s : State) : (s.tick).running = s.running := rfl
@[simp] theorem State.tick_inputs (s : State) : (s.tick).inputs = s.inputs := rfl
@[simp] theorem State.tick_outHistory (s : State) : (s.tick).outHistory = s.outHistory := rfl
@[simp] theorem State.tick_screen (s : State) : (s.tick).screen = s.screen := rfl
@[simp] theorem State.tick_screenbuffer (s : State) : (s.tick).screenbuffer = s.screenbuffer := rfl
@[simp] theorem State.tick_faultKind (s : State) : (s.tick).faultKind = s.faultKind := rfl
@[simp] theorem State.tick_faultReason (s : State) : (s.tick).faultReason = s.faultReason := rfl
@[simp] theorem State.tick_faultIp (s : State) : (s.tick).faultIp = s.faultIp := rfl
@[simp] theorem State.tick_params (s : State) : (s.tick).params = s.params := rfl
@[simp] theorem State.tick_freeDraws (s : State) : (s.tick).freeDraws = s.freeDraws := rfl

@[simp] theorem State.endCheck_program (s : State) : (s.endCheck).program = s.program := by
  unfold State.endCheck; split <;> rfl
@[simp] theorem State.endCheck_ip (s : State) : (s.endCheck).ip = s.ip := by
  unfold State.endCheck; split <;> rfl
@[simp] theorem State.endCheck_clockCycle (s : State) : (s.endCheck).clockCycle = s.clockCycle := by
  unfold State.endCheck; split <;> rfl
@[simp] theorem State.endCheck_a (s : State) : (s.endCheck).a = s.a := by
  unfold State.endCheck; split <;> rfl
@[simp] theorem State.endCheck_b (s : State) : (s.endCheck).b = s.b := by
  unfold State.endCheck; split <;> rfl
@[simp] theorem State.endCheck_cacheSlots (s : State) : (s.endCheck).cacheSlots = s.cacheSlots := by
  unfold State.endCheck; split <;> rfl
@[simp] theorem State.endCheck_ram (s : State) : (s.endCheck).ram = s.ram := by
  unfold State.endCheck; split <;> rfl
@[simp] theorem State.endCheck_loadedBank (s : State) : (s.endCheck).loadedBank = s.loadedBank := by
  unfold State.endCheck; split <;> rfl
@[simp] theorem State.endCheck_loadedBankIndex (s : State) :
    (s.endCheck).loadedBankIndex = s.loadedBankIndex := by
  unfold State.endCheck; split <;> rfl
@[simp] theorem State.endCheck_running (s : State) :
    (s.endCheck).running = (s.running && decide (s.ip < s.program.length)) := by
  unfold State.endCheck; split <;> simp_all
@[simp] theorem State.endCheck_inputs (s : State) : (s.endCheck).inputs = s.inputs := by
  unfold State.endCheck; split <;> rfl
@[simp] theorem State.endCheck_outHistory (s : State) : (s.endCheck).outHistory = s.outHistory := by
  unfold State.endCheck; split <;> rfl
@[simp] theorem State.endCheck_screen (s : State) : (s.endCheck).screen = s.screen := by
  unfold State.endCheck; split <;> rfl
@[simp] theorem State.endCheck_screenbuffer (s : State) :
    (s.endCheck).screenbuffer = s.screenbuffer := by
  unfold State.endCheck; split <;> rfl
@[simp] theorem State.endCheck_faultKind (s : State) : (s.endCheck).faultKind = s.faultKind := by
  unfold State.endCheck; split <;> rfl
@[simp] theorem State.endCheck_faultReason (s : State) :
    (s.endCheck).faultReason = s.faultReason := by
  unfold State.endCheck; split <;> rfl
@[simp] theorem State.endCheck_faultIp (s : State) : (s.endCheck).faultIp = s.faultIp := by
  unfold State.endCheck; split <;> rfl
@[simp] theorem State.endCheck_params (s : State) : (s.endCheck).params = s.params := by
  unfold State.endCheck; split <;> rfl
@[simp] theorem State.endCheck_freeDraws (s : State) : (s.endCheck).freeDraws = s.freeDraws := by
  unfold State.endCheck; split <;> rfl

@[simp] theorem takeFault_program (r : Raise) (s : State) : (takeFault r s).program = s.program :=
    rfl
@[simp] theorem takeFault_ip (r : Raise) (s : State) : (takeFault r s).ip = s.ip := rfl
@[simp] theorem takeFault_clockCycle (r : Raise) (s : State) : (takeFault r s).clockCycle = s.clockCycle :=
    rfl
@[simp] theorem takeFault_a (r : Raise) (s : State) : (takeFault r s).a = s.a := rfl
@[simp] theorem takeFault_b (r : Raise) (s : State) : (takeFault r s).b = s.b := rfl
@[simp] theorem takeFault_cacheSlots (r : Raise) (s : State) : (takeFault r s).cacheSlots = s.cacheSlots :=
    rfl
@[simp] theorem takeFault_ram (r : Raise) (s : State) : (takeFault r s).ram = s.ram := rfl
@[simp] theorem takeFault_loadedBank (r : Raise) (s : State) : (takeFault r s).loadedBank = s.loadedBank :=
    rfl
@[simp] theorem takeFault_loadedBankIndex (r : Raise) (s : State) :
    (takeFault r s).loadedBankIndex = s.loadedBankIndex := rfl
@[simp] theorem takeFault_running (r : Raise) (s : State) : (takeFault r s).running = false := rfl
@[simp] theorem takeFault_inputs (r : Raise) (s : State) : (takeFault r s).inputs = s.inputs := rfl
@[simp] theorem takeFault_outHistory (r : Raise) (s : State) : (takeFault r s).outHistory = s.outHistory :=
    rfl
@[simp] theorem takeFault_screen (r : Raise) (s : State) : (takeFault r s).screen = s.screen := rfl
@[simp] theorem takeFault_screenbuffer (r : Raise) (s : State) :
    (takeFault r s).screenbuffer = s.screenbuffer := rfl
@[simp] theorem takeFault_faultKind (r : Raise) (s : State) : (takeFault r s).faultKind = r.kind :=
    rfl
@[simp] theorem takeFault_faultReason (r : Raise) (s : State) : (takeFault r s).faultReason = r.reason :=
    rfl
@[simp] theorem takeFault_faultIp (r : Raise) (s : State) : (takeFault r s).faultIp = s.ip := rfl
@[simp] theorem takeFault_params (r : Raise) (s : State) : (takeFault r s).params = s.params := rfl
@[simp] theorem takeFault_freeDraws (r : Raise) (s : State) : (takeFault r s).freeDraws = s.freeDraws :=
    rfl

@[simp] theorem State.freeDisplay_program (s : State) : (s.freeDisplay).program = s.program := rfl
@[simp] theorem State.freeDisplay_ip (s : State) : (s.freeDisplay).ip = s.ip := rfl
@[simp] theorem State.freeDisplay_clockCycle (s : State) : (s.freeDisplay).clockCycle = s.clockCycle :=
    rfl
@[simp] theorem State.freeDisplay_a (s : State) : (s.freeDisplay).a = s.a := rfl
@[simp] theorem State.freeDisplay_b (s : State) : (s.freeDisplay).b = s.b := rfl
@[simp] theorem State.freeDisplay_cacheSlots (s : State) : (s.freeDisplay).cacheSlots = s.cacheSlots :=
    rfl
@[simp] theorem State.freeDisplay_ram (s : State) : (s.freeDisplay).ram = s.ram := rfl
@[simp] theorem State.freeDisplay_loadedBank (s : State) : (s.freeDisplay).loadedBank = s.loadedBank :=
    rfl
@[simp] theorem State.freeDisplay_loadedBankIndex (s : State) :
    (s.freeDisplay).loadedBankIndex = s.loadedBankIndex := rfl
@[simp] theorem State.freeDisplay_running (s : State) : (s.freeDisplay).running = s.running := rfl
@[simp] theorem State.freeDisplay_inputs (s : State) : (s.freeDisplay).inputs = s.inputs := rfl
@[simp] theorem State.freeDisplay_outHistory (s : State) : (s.freeDisplay).outHistory = s.outHistory :=
    rfl
@[simp] theorem State.freeDisplay_screen (s : State) :
    (s.freeDisplay).screen = Config.freeGrid s.freeDraws := rfl
@[simp] theorem State.freeDisplay_screenbuffer (s : State) :
    (s.freeDisplay).screenbuffer = Config.freeGrid (s.freeDraws + 1) := rfl
@[simp] theorem State.freeDisplay_faultKind (s : State) : (s.freeDisplay).faultKind = s.faultKind :=
    rfl
@[simp] theorem State.freeDisplay_faultReason (s : State) : (s.freeDisplay).faultReason = s.faultReason :=
    rfl
@[simp] theorem State.freeDisplay_faultIp (s : State) : (s.freeDisplay).faultIp = s.faultIp := rfl
@[simp] theorem State.freeDisplay_params (s : State) : (s.freeDisplay).params = s.params := rfl
@[simp] theorem State.freeDisplay_freeDraws (s : State) : (s.freeDisplay).freeDraws = s.freeDraws + 2 :=
    rfl

@[simp] theorem State.runCommand_program (s : State) (c : ScreenCommand) (x y : Fin 64) :
    (s.runCommand c x y).program = s.program := by cases c <;> rfl
@[simp] theorem State.runCommand_ip (s : State) (c : ScreenCommand) (x y : Fin 64) :
    (s.runCommand c x y).ip = s.ip := by cases c <;> rfl
@[simp] theorem State.runCommand_clockCycle (s : State) (c : ScreenCommand) (x y : Fin 64) :
    (s.runCommand c x y).clockCycle = s.clockCycle := by cases c <;> rfl
@[simp] theorem State.runCommand_a (s : State) (c : ScreenCommand) (x y : Fin 64) :
    (s.runCommand c x y).a = s.a := by cases c <;> rfl
@[simp] theorem State.runCommand_b (s : State) (c : ScreenCommand) (x y : Fin 64) :
    (s.runCommand c x y).b = s.b := by cases c <;> rfl
@[simp] theorem State.runCommand_cacheSlots (s : State) (c : ScreenCommand) (x y : Fin 64) :
    (s.runCommand c x y).cacheSlots = s.cacheSlots := by cases c <;> rfl
@[simp] theorem State.runCommand_ram (s : State) (c : ScreenCommand) (x y : Fin 64) :
    (s.runCommand c x y).ram = s.ram := by cases c <;> rfl
@[simp] theorem State.runCommand_loadedBank (s : State) (c : ScreenCommand) (x y : Fin 64) :
    (s.runCommand c x y).loadedBank = s.loadedBank := by cases c <;> rfl
@[simp] theorem State.runCommand_loadedBankIndex (s : State) (c : ScreenCommand) (x y : Fin 64) :
    (s.runCommand c x y).loadedBankIndex = s.loadedBankIndex := by cases c <;> rfl
@[simp] theorem State.runCommand_running (s : State) (c : ScreenCommand) (x y : Fin 64) :
    (s.runCommand c x y).running = s.running := by cases c <;> rfl
@[simp] theorem State.runCommand_inputs (s : State) (c : ScreenCommand) (x y : Fin 64) :
    (s.runCommand c x y).inputs = s.inputs := by cases c <;> rfl
@[simp] theorem State.runCommand_outHistory (s : State) (c : ScreenCommand) (x y : Fin 64) :
    (s.runCommand c x y).outHistory = s.outHistory := by cases c <;> rfl
@[simp] theorem State.runCommand_faultKind (s : State) (c : ScreenCommand) (x y : Fin 64) :
    (s.runCommand c x y).faultKind = s.faultKind := by cases c <;> rfl
@[simp] theorem State.runCommand_faultReason (s : State) (c : ScreenCommand) (x y : Fin 64) :
    (s.runCommand c x y).faultReason = s.faultReason := by cases c <;> rfl
@[simp] theorem State.runCommand_faultIp (s : State) (c : ScreenCommand) (x y : Fin 64) :
    (s.runCommand c x y).faultIp = s.faultIp := by cases c <;> rfl
@[simp] theorem State.runCommand_params (s : State) (c : ScreenCommand) (x y : Fin 64) :
    (s.runCommand c x y).params = s.params := by cases c <;> rfl
@[simp] theorem State.runCommand_freeDraws (s : State) (c : ScreenCommand) (x y : Fin 64) :
    (s.runCommand c x y).freeDraws = s.freeDraws := by cases c <;> rfl

@[simp] theorem State.otherCommand_program (s : State) (v : Word) :
    (s.otherCommand v).program = s.program := by
  unfold State.otherCommand; repeat (first | rfl | split)
@[simp] theorem State.otherCommand_ip (s : State) (v : Word) :
    (s.otherCommand v).ip = s.ip := by
  unfold State.otherCommand; repeat (first | rfl | split)
@[simp] theorem State.otherCommand_clockCycle (s : State) (v : Word) :
    (s.otherCommand v).clockCycle = s.clockCycle := by
  unfold State.otherCommand; repeat (first | rfl | split)
@[simp] theorem State.otherCommand_a (s : State) (v : Word) :
    (s.otherCommand v).a = s.a := by
  unfold State.otherCommand; repeat (first | rfl | split)
@[simp] theorem State.otherCommand_b (s : State) (v : Word) :
    (s.otherCommand v).b = s.b := by
  unfold State.otherCommand; repeat (first | rfl | split)
@[simp] theorem State.otherCommand_cacheSlots (s : State) (v : Word) :
    (s.otherCommand v).cacheSlots = s.cacheSlots := by
  unfold State.otherCommand; repeat (first | rfl | split)
@[simp] theorem State.otherCommand_ram (s : State) (v : Word) :
    (s.otherCommand v).ram = s.ram := by
  unfold State.otherCommand; repeat (first | rfl | split)
@[simp] theorem State.otherCommand_loadedBank (s : State) (v : Word) :
    (s.otherCommand v).loadedBank = s.loadedBank := by
  unfold State.otherCommand; repeat (first | rfl | split)
@[simp] theorem State.otherCommand_loadedBankIndex (s : State) (v : Word) :
    (s.otherCommand v).loadedBankIndex = s.loadedBankIndex := by
  unfold State.otherCommand; repeat (first | rfl | split)
@[simp] theorem State.otherCommand_running (s : State) (v : Word) :
    (s.otherCommand v).running = s.running := by
  unfold State.otherCommand; repeat (first | rfl | split)
@[simp] theorem State.otherCommand_inputs (s : State) (v : Word) :
    (s.otherCommand v).inputs = s.inputs := by
  unfold State.otherCommand; repeat (first | rfl | split)
@[simp] theorem State.otherCommand_outHistory (s : State) (v : Word) :
    (s.otherCommand v).outHistory = s.outHistory := by
  unfold State.otherCommand; repeat (first | rfl | split)
@[simp] theorem State.otherCommand_faultKind (s : State) (v : Word) :
    (s.otherCommand v).faultKind = s.faultKind := by
  unfold State.otherCommand; repeat (first | rfl | split)
@[simp] theorem State.otherCommand_faultReason (s : State) (v : Word) :
    (s.otherCommand v).faultReason = s.faultReason := by
  unfold State.otherCommand; repeat (first | rfl | split)
@[simp] theorem State.otherCommand_faultIp (s : State) (v : Word) :
    (s.otherCommand v).faultIp = s.faultIp := by
  unfold State.otherCommand; repeat (first | rfl | split)
@[simp] theorem State.otherCommand_params (s : State) (v : Word) :
    (s.otherCommand v).params = s.params := by
  unfold State.otherCommand; repeat (first | rfl | split)

@[simp] theorem State.screenOp_program (s : State) (v : Word) (p : Fin 64 × Fin 64) :
    (s.screenOp v p).program = s.program := by
  unfold State.screenOp; split <;> simp
@[simp] theorem State.screenOp_ip (s : State) (v : Word) (p : Fin 64 × Fin 64) :
    (s.screenOp v p).ip = s.ip := by
  unfold State.screenOp; split <;> simp
@[simp] theorem State.screenOp_clockCycle (s : State) (v : Word) (p : Fin 64 × Fin 64) :
    (s.screenOp v p).clockCycle = s.clockCycle := by
  unfold State.screenOp; split <;> simp
@[simp] theorem State.screenOp_a (s : State) (v : Word) (p : Fin 64 × Fin 64) :
    (s.screenOp v p).a = s.a := by
  unfold State.screenOp; split <;> simp
@[simp] theorem State.screenOp_b (s : State) (v : Word) (p : Fin 64 × Fin 64) :
    (s.screenOp v p).b = s.b := by
  unfold State.screenOp; split <;> simp
@[simp] theorem State.screenOp_cacheSlots (s : State) (v : Word) (p : Fin 64 × Fin 64) :
    (s.screenOp v p).cacheSlots = s.cacheSlots := by
  unfold State.screenOp; split <;> simp
@[simp] theorem State.screenOp_ram (s : State) (v : Word) (p : Fin 64 × Fin 64) :
    (s.screenOp v p).ram = s.ram := by
  unfold State.screenOp; split <;> simp
@[simp] theorem State.screenOp_loadedBank (s : State) (v : Word) (p : Fin 64 × Fin 64) :
    (s.screenOp v p).loadedBank = s.loadedBank := by
  unfold State.screenOp; split <;> simp
@[simp] theorem State.screenOp_loadedBankIndex (s : State) (v : Word) (p : Fin 64 × Fin 64) :
    (s.screenOp v p).loadedBankIndex = s.loadedBankIndex := by
  unfold State.screenOp; split <;> simp
@[simp] theorem State.screenOp_running (s : State) (v : Word) (p : Fin 64 × Fin 64) :
    (s.screenOp v p).running = s.running := by
  unfold State.screenOp; split <;> simp
@[simp] theorem State.screenOp_inputs (s : State) (v : Word) (p : Fin 64 × Fin 64) :
    (s.screenOp v p).inputs = s.inputs := by
  unfold State.screenOp; split <;> simp
@[simp] theorem State.screenOp_outHistory (s : State) (v : Word) (p : Fin 64 × Fin 64) :
    (s.screenOp v p).outHistory = s.outHistory := by
  unfold State.screenOp; split <;> simp
@[simp] theorem State.screenOp_faultKind (s : State) (v : Word) (p : Fin 64 × Fin 64) :
    (s.screenOp v p).faultKind = s.faultKind := by
  unfold State.screenOp; split <;> simp
@[simp] theorem State.screenOp_faultReason (s : State) (v : Word) (p : Fin 64 × Fin 64) :
    (s.screenOp v p).faultReason = s.faultReason := by
  unfold State.screenOp; split <;> simp
@[simp] theorem State.screenOp_faultIp (s : State) (v : Word) (p : Fin 64 × Fin 64) :
    (s.screenOp v p).faultIp = s.faultIp := by
  unfold State.screenOp; split <;> simp
@[simp] theorem State.screenOp_params (s : State) (v : Word) (p : Fin 64 × Fin 64) :
    (s.screenOp v p).params = s.params := by
  unfold State.screenOp; split <;> simp

end Sys2Proof.Machine
end

