-- ==== Sys2Proof/Laws/Step.lean ====
section
/-! SUPPORT. What a step can do, said once: the common step actions, the execute part of each
instruction, and the cases of a completed and of a faulting step. -/

namespace Sys2Proof.Machine

/-! ### The common step actions -/

theorem completeStep_ok {e : State → Except Raise State} {s t : State} (h : e s.advance = .ok t) :
    completeStep e s = t.tick.endCheck := by simp [completeStep, h]

theorem completeStep_error {e : State → Except Raise State} {s : State} {r : Raise}
    (h : e s.advance = .error r) : completeStep e s = takeFault r s := by simp [completeStep, h]

/-- R101, R242: a step completes or takes one fault. -/
theorem completeStep_cases (e : State → Except Raise State) (s : State) :
    (∃ t, e s.advance = .ok t ∧ completeStep e s = t.tick.endCheck) ∨
      ∃ r, e s.advance = .error r ∧ completeStep e s = takeFault r s := by
  cases h : e s.advance with
  | ok t => exact .inl ⟨t, rfl, completeStep_ok h⟩
  | error r => exact .inr ⟨r, rfl, completeStep_error h⟩

/-- The end of a completed step in the vocabulary of the statements. -/
theorem tick_endCheck_eq_finished (s t : State) (hp : t.params = s.params)
    (hc : t.clockCycle = s.clockCycle) (hl : t.program = s.program) :
    t.tick.endCheck = finished s t.ip t := by
  unfold State.endCheck State.tick finished
  simp only [hp, hc, hl]
  split
  · next h => simp [h]
  · next h => simp [Nat.lt_of_not_le h]

/-- A fault in the vocabulary of the statements. -/
theorem takeFault_eq_faulted (r : Raise) (s : State) : takeFault r s = faulted s r.kind r.reason :=
  rfl

@[simp] theorem need_some (n : Nat) : need (some n) = .ok n := rfl
@[simp] theorem need_none : need none = .error .missingArg := rfl

/-! ### Operands and outputs -/

theorem selector_cache {n : Nat} (h : n < 32) : selector n = .cache ⟨n, h⟩ := by
  unfold selector
  rw [if_pos (by omega)]
  congr 1
  exact Fin.ext (Nat.mod_eq_of_lt h)

theorem selector_device {n : Nat} (h : 32 ≤ n) :
    selector n = .device ⟨n % 32, Nat.mod_lt _ (by decide)⟩ := by
  unfold selector
  rw [if_neg (by omega)]
  rfl

theorem loadSelected_cache (s : State) {n : Nat} (h : n < 32) :
    s.loadSelected n = .ok (s.readCache ⟨n, h⟩) := by
  simp [State.loadSelected, selector_cache h]

theorem loadSelected_input (s : State) {n : Nat} (h : 32 ≤ n) (h8 : n % 32 < 8) :
    s.loadSelected n = .ok (s.readInput ⟨n % 32, h8⟩) := by
  simp [State.loadSelected, selector_device h, h8]

theorem loadSelected_range (s : State) {n : Nat} (h : 32 ≤ n) (h8 : 8 ≤ n % 32) :
    s.loadSelected n = .error .inputRange := by
  simp [State.loadSelected, selector_device h, Nat.not_lt.mpr h8]

/-- R122: a load raises nothing but `INPUT_RANGE`, and only for an input index above 7. -/
theorem loadSelected_error {s : State} {n : Nat} {r : Raise} (h : s.loadSelected n = .error r) :
    r = .inputRange ∧ 32 ≤ n ∧ 8 ≤ n % 32 := by
  by_cases hn : n < 32
  · rw [loadSelected_cache s hn] at h; cases h
  · by_cases h8 : n % 32 < 8
    · rw [loadSelected_input s (by omega) h8] at h; cases h
    · rw [loadSelected_range s (by omega) (by omega)] at h
      cases h
      exact ⟨rfl, by omega, by omega⟩

/-- R35: the last position after one more history entry. -/
theorem lastPosition_append (h : List (Fin 32 × Word)) (r : Fin 32) (v : Word) :
    lastPosition (h ++ [(r, v)]) = if r = 7 then some v else lastPosition h := by
  induction h with
  | nil => rfl
  | cons c h ih =>
    obtain ⟨k, w⟩ := c
    simp only [List.cons_append, lastPosition, ih]
    by_cases hr : r = 7 <;> simp [hr]

theorem writeOutput_plain (s : State) {r : Fin 32} (v : Word) (h : r ≠ 6) :
    s.writeOutput r v = .ok (s.emit r v) := by simp [State.writeOutput, h]

/-- R140: the register-7 lookup never finds the register-6 entry of the same step. -/
theorem writeOutput_display (s : State) (v : Word) :
    s.writeOutput 6 v = match lastPosition s.outHistory with
      | none => .error .displayProtocolFault
      | some p => .ok ((s.emit 6 v).screenOp v (decodePosition p)) := by
  simp only [State.writeOutput, State.emit_outHistory, lastPosition_append, if_true]
  rfl

/-! ### The execute parts -/

/-- R103: the execute part of each instruction. -/
def executeOf : Instr → State → Except Raise State
  | .la arg => executeLa arg
  | .lb arg => executeLb arg
  | .lal arg => executeLal arg
  | .lbl arg => executeLbl arg
  | .lah arg => executeLah arg
  | .lbh arg => executeLbh arg
  | .sva arg => executeSva arg
  | .stp arg => executeStp arg
  | .add arg => executeAdd arg
  | .sub arg => executeSub arg
  | .and arg => executeAnd arg
  | .or arg => executeOr arg
  | .xor arg => executeXor arg
  | .sup arg => executeSup arg
  | .sdn arg => executeSdn arg
  | .mul arg => executeMul arg
  | .inb arg => executeInb arg
  | .rw arg => executeRw arg
  | .rr arg => executeRr arg
  | .rc arg => executeRc arg
  | .jmp arg => executeJmp arg
  | .je arg => executeJumpIf .equal arg
  | .jne arg => executeJumpIf .notEqual arg
  | .jg arg => executeJumpIf .greater arg
  | .jl arg => executeJumpIf .less arg
  | .jge arg => executeJumpIf .greaterOrEqual arg
  | .jle arg => executeJumpIf .lessOrEqual arg
  | .reserved27 arg => executeUnknown arg
  | .reserved28 arg => executeUnknown arg
  | .reserved29 arg => executeUnknown arg
  | .unknown arg => executeUnknown arg
  | .nop arg => executeNop arg

/-- R12, R101: every meaning is the common step of its execute part, so it always has a next state. -/
theorem exec_eq (i : Instr) (s : State) : exec i s = .next (completeStep (executeOf i) s) := by
  cases i <;> rfl

/-- R105: everything the execute part of `i` can do when it raises nothing, with the instruction that
does it. -/
inductive Effect (i : Instr) (s : State) : State → Prop where
  | nothing (h7 : i.opcode ≠ 7#5) (hrw : ∀ arg, i ≠ .rw arg) : Effect i s s
  | setA (v : Word) (h7 : i.opcode ≠ 7#5) (hrw : ∀ arg, i ≠ .rw arg) (hrc : ∀ arg, i ≠ .rc arg) :
      Effect i s (s.setA v)
  | setB (v : Word) (h7 : i.opcode ≠ 7#5) (hrw : ∀ arg, i ≠ .rw arg) (hrc : ∀ arg, i ≠ .rc arg) :
      Effect i s (s.setB v)
  | jump (n : Nat) (h20 : 20 ≤ i.opcode.toNat) (h26 : i.opcode.toNat ≤ 26) (ha : i.arg = some n) :
      Effect i s (s.setIp n)
  | stop (h7 : i.opcode = 7#5) : Effect i s s.halt
  | cache (n : Nat) (h : n < 32) (hi : i = .sva (some n)) : Effect i s (s.writeCache ⟨n, h⟩ s.a)
  | output (n : Nat) (r : Fin 32) (hi : i = .sva (some n)) (h : 32 ≤ n) (hr : r.val = n % 32)
      (h6 : r ≠ 6) : Effect i s (s.emit r s.a)
  | display (n : Nat) (p : Word) (hi : i = .sva (some n)) (h : 32 ≤ n) (h6 : n % 32 = 6)
      (hp : lastPosition s.outHistory = some p) :
      Effect i s ((s.emit 6 s.a).screenOp s.a (decodePosition p))
  | window (arg : Option Nat) (hi : i = .rw arg) : Effect i s (s.writeWindow (windowIndex s.b) s.a)
  | bank (arg : Option Nat) (hi : i = .rc arg) (h : targetBank s.b ≠ s.loadedBankIndex) :
      Effect i s (s.switchBank (targetBank s.b))

/-- R80: the instructions of class `REQ` raise `MISSING_ARG` first. -/
theorem bind_need_ok {arg : Option Nat} {f : Nat → Except Raise State} {t : State}
    (h : (need arg >>= f) = .ok t) : ∃ n, arg = some n ∧ f n = .ok t := by
  cases arg with
  | none => cases h
  | some n => exact ⟨n, rfl, h⟩

theorem bind_need_error {arg : Option Nat} {f : Nat → Except Raise State} {r : Raise}
    (h : (need arg >>= f) = .error r) :
    (arg = none ∧ r = .missingArg) ∨ ∃ n, arg = some n ∧ f n = .error r := by
  cases arg with
  | none => cases h; exact .inl ⟨rfl, rfl⟩
  | some n => exact .inr ⟨n, rfl, h⟩

theorem bind_ok {α : Type} {x : Except Raise α} {f : α → Except Raise State} {t : State}
    (h : (x >>= f) = .ok t) : ∃ v, x = .ok v ∧ f v = .ok t := by
  cases x with
  | error r => cases h
  | ok v => exact ⟨v, rfl, h⟩

theorem executeSva_ok {arg : Option Nat} {s t : State} (h : executeSva arg s = .ok t) :
    Effect (.sva arg) s t := by
  obtain ⟨n, rfl, hn⟩ := bind_need_ok h
  clear h
  by_cases h32 : n < 32
  · rw [selector_cache h32] at hn; cases hn; exact .cache n h32 rfl
  · rw [selector_device (by omega)] at hn
    dsimp only at hn
    by_cases hr : (⟨n % 32, Nat.mod_lt _ (by decide)⟩ : Fin 32) = 6
    · rw [hr, writeOutput_display] at hn
      split at hn
      · cases hn
      · next p hp => cases hn; exact .display n p rfl (by omega) (congrArg Fin.val hr) hp
    · rw [writeOutput_plain _ _ hr] at hn
      cases hn; exact .output n _ rfl (by omega) rfl hr

theorem executeJumpIf_ok {i : Instr} {c : Condition} {arg : Option Nat} {s t : State}
    (h : executeJumpIf c arg s = .ok t) (ha : i.arg = arg) (h20 : 20 ≤ i.opcode.toNat)
    (h26 : i.opcode.toNat ≤ 26) : Effect i s t := by
  obtain ⟨n, rfl, hn⟩ := bind_need_ok h
  clear h
  cases hn
  split
  · exact .jump n h20 h26 ha
  · exact .nothing (by rintro h; rw [h] at h20; exact absurd h20 (by decide))
      (by rintro arg rfl; exact absurd h20 (by simp [Instr.opcode]))

theorem executeUnknown_ok {i : Instr} {arg : Option Nat} {s t : State}
    (h : executeUnknown arg s = .ok t) (h7 : i.opcode ≠ 7#5) (hrw : ∀ arg, i ≠ .rw arg) :
    Effect i s t := by
  unfold executeUnknown at h
  split at h <;> cases h
  exact .nothing h7 hrw

/-- R105: an execute part that raises nothing does one of the effects. -/
theorem executeOf_ok {i : Instr} {s t : State} (h : executeOf i s = .ok t) : Effect i s t := by
  cases i with
  | la arg | lb arg =>
    obtain ⟨n, rfl, hn⟩ := bind_need_ok h
    obtain ⟨v, -, hv⟩ := bind_ok hn
    cases hv; constructor <;> simp [Instr.opcode]
  | lal arg | lbl arg | lah arg | lbh arg | sup arg | sdn arg | jmp arg =>
    obtain ⟨n, rfl, hn⟩ := bind_need_ok h
    cases hn; constructor <;> simp [Instr.opcode, Instr.arg]
  | sva arg => exact executeSva_ok h
  | add arg | sub arg | and arg | or arg | xor arg | mul arg | inb arg | rr arg | stp arg
  | nop arg => cases h; constructor <;> simp [Instr.opcode]
  | rw arg => cases h; exact .window arg rfl
  | rc arg =>
    simp only [executeOf, executeRc] at h
    split at h <;> cases h
    · next ht => exact .bank arg rfl ht
    · exact .nothing (by simp [Instr.opcode]) (by simp)
  | je arg | jne arg | jg arg | jl arg | jge arg | jle arg =>
    exact executeJumpIf_ok h rfl (by simp [Instr.opcode]) (by simp [Instr.opcode])
  | reserved27 arg | reserved28 arg | reserved29 arg | unknown arg =>
    exact executeUnknown_ok (arg := arg) h (by simp [Instr.opcode]) (by simp)

/-- R241: everything an execute part can raise, and when. -/
inductive Raises (i : Instr) (s : State) : Raise → Prop where
  | missingArg (hc : argClass i = .required) (h : i.arg = none) : Raises i s .missingArg
  | inputRange (n : Nat) (hi : i = .la (some n) ∨ i = .lb (some n)) (h : 32 ≤ n) (h8 : 8 ≤ n % 32) :
      Raises i s .inputRange
  | display (n : Nat) (hi : i = .sva (some n)) (h : 32 ≤ n) (h6 : n % 32 = 6)
      (hp : lastPosition s.outHistory = none) : Raises i s .displayProtocolFault
  | illegal (hp : s.params.unknownOpPolicy = .fault) (h27 : 27 ≤ i.opcode.toNat)
      (h31 : i.opcode.toNat < 31) : Raises i s .illegalInstruction

theorem executeSva_error {arg : Option Nat} {s : State} {r : Raise}
    (h : executeSva arg s = .error r) : Raises (.sva arg) s r := by
  rcases bind_need_error h with ⟨rfl, rfl⟩ | ⟨n, rfl, hn⟩
  · exact .missingArg rfl rfl
  · by_cases h32 : n < 32
    · rw [selector_cache h32] at hn; cases hn
    · rw [selector_device (by omega)] at hn
      dsimp only at hn
      by_cases hr : (⟨n % 32, Nat.mod_lt _ (by decide)⟩ : Fin 32) = 6
      · rw [hr, writeOutput_display] at hn
        split at hn
        · next hp => cases hn; exact .display n rfl (by omega) (congrArg Fin.val hr) hp
        · cases hn
      · rw [writeOutput_plain _ _ hr] at hn; cases hn

theorem executeUnknown_error {i : Instr} {s : State} {r : Raise}
    (h : executeUnknown i.arg s = .error r) (h27 : 27 ≤ i.opcode.toNat) (h31 : i.opcode.toNat < 31) :
    Raises i s r := by
  unfold executeUnknown at h
  split at h
  · cases h
  · next hp => cases h; exact .illegal hp h27 h31

/-- R241: what an execute part raises is one of the faults of the table, with its cause. -/
theorem executeOf_error {i : Instr} {s : State} {r : Raise} (h : executeOf i s = .error r) :
    Raises i s r := by
  cases i with
  | la arg | lb arg =>
    rcases bind_need_error h with ⟨rfl, rfl⟩ | ⟨n, rfl, hn⟩
    · exact .missingArg rfl rfl
    · cases hl : s.loadSelected n with
      | ok v => rw [hl] at hn; cases hn
      | error r' =>
        rw [hl] at hn; cases hn
        obtain ⟨rfl, h1, h2⟩ := loadSelected_error hl
        exact .inputRange n (by simp) h1 h2
  | lal arg | lbl arg | lah arg | lbh arg | sup arg | sdn arg | jmp arg =>
    rcases bind_need_error h with ⟨rfl, rfl⟩ | ⟨n, rfl, hn⟩
    · exact .missingArg rfl rfl
    · cases hn
  | sva arg => exact executeSva_error h
  | add arg | sub arg | and arg | or arg | xor arg | mul arg | inb arg | rw arg | rr arg | rc arg
  | stp arg | nop arg => cases h
  | je arg | jne arg | jg arg | jl arg | jge arg | jle arg =>
    rcases bind_need_error h with ⟨rfl, rfl⟩ | ⟨n, rfl, hn⟩
    · exact .missingArg rfl rfl
    · cases hn
  | reserved27 arg | reserved28 arg | reserved29 arg | unknown arg =>
    exact executeUnknown_error h (by simp [Instr.opcode]) (by simp [Instr.opcode])

/-! ### A step -/

/-- R101, R107, R108: what a step that has a next state did. -/
theorem step_next {s t : State} (h : step s = .next t) :
    s.running = true ∧
      ((s.fetch = none ∧ t = takeFault .fetchRange s) ∨
        ∃ entry, s.fetch = some entry ∧ t = completeStep (executeOf (decodeEntry entry)) s) := by
  unfold step at h
  split at h
  · next hr =>
    refine ⟨hr, ?_⟩
    split at h
    · next hf => cases h; exact .inl ⟨hf, rfl⟩
    · next e he => rw [exec_eq] at h; cases h; exact .inr ⟨e, he, rfl⟩
  · cases h

/-- Everything an instruction can do: it takes one fault, or it completes one of the effects. -/
theorem exec_cases {i : Instr} {s t : State} (h : exec i s = .next t) :
    (∃ r, Raises i s.advance r ∧ t = takeFault r s) ∨
      ∃ u, Effect i s.advance u ∧ t = u.tick.endCheck := by
  rw [exec_eq] at h
  cases h
  rcases completeStep_cases (executeOf i) s with ⟨u, hu, hc⟩ | ⟨r, hr, hc⟩
  · exact .inr ⟨u, executeOf_ok hu, hc⟩
  · exact .inl ⟨r, executeOf_error hr, hc⟩

/-- Everything a step can do. -/
theorem step_cases {s t : State} (h : step s = .next t) :
    s.running = true ∧
      ((∃ r, t = takeFault r s) ∨ ∃ i u, Effect i s.advance u ∧ t = u.tick.endCheck) := by
  obtain ⟨hr, ⟨-, ht⟩ | ⟨e, -, ht⟩⟩ := step_next h
  · exact ⟨hr, .inl ⟨_, ht⟩⟩
  · refine ⟨hr, ?_⟩
    rcases exec_cases (exec_eq (decodeEntry e) s) with ⟨r, -, hc⟩ | ⟨u, hu, hc⟩
    · exact .inl ⟨r, ht.trans hc⟩
    · exact .inr ⟨_, u, hu, ht.trans hc⟩

/-- A run of `n + 1` steps that has a next state is a step and a run of `n`. -/
theorem core_run_succ_next {n : Nat} {s t : State}
    (h : Host.Core.run Sys2Proof.core (n + 1) s = .next t) :
    ∃ u, step s = .next u ∧ Host.Core.run Sys2Proof.core n u = .next t := by
  have h := (Host.Core.run.eq_2 Sys2Proof.core s n).symm.trans h
  cases hs : Sys2Proof.core.step s with
  | next u => rw [hs] at h; exact ⟨u, hs, h⟩
  | fault r => rw [hs] at h; cases h
  | refused r => rw [hs] at h; cases h

/-- R108: a halted machine has no step. -/
theorem step_halted {s : State} (h : s.running = false) : step s = .refused .haltedStep := by
  simp [step, h]

/-- R105: no effect of an instruction touches the program, the inputs, the parameters, the counter or
the fault status. -/
theorem Effect.unchanged {i : Instr} {s t : State} (h : Effect i s t) :
    t.program = s.program ∧ t.params = s.params ∧ t.inputs = s.inputs ∧
      t.clockCycle = s.clockCycle ∧ t.faultKind = s.faultKind ∧ t.faultReason = s.faultReason ∧
      t.faultIp = s.faultIp := by
  cases h <;> simp

/-- An instruction whose execute part raises nothing completes. -/
theorem exec_of_ok {i : Instr} {s t : State} (h : executeOf i s.advance = .ok t) :
    exec i s = .next (finished s t.ip t) := by
  obtain ⟨h1, h2, -, h4, -⟩ := (executeOf_ok h).unchanged
  rw [exec_eq, completeStep_ok h, tick_endCheck_eq_finished s t h2 h4 h1]

/-- An instruction whose execute part raises a fault takes it. -/
theorem exec_of_error {i : Instr} {s : State} {r : Raise} (h : executeOf i s.advance = .error r) :
    exec i s = .next (faulted s r.kind r.reason) := by
  rw [exec_eq, completeStep_error h]; rfl

end Sys2Proof.Machine
end

