-- ==== Sys2Proof/Tests/Slice0.lean ====
section
/-! SUPPORT. The model's own tests: a smoke test of the well-formedness checks, words and lines decoded,
single steps, and for each statement with hypotheses a witness that meets them. Expected values come
from spec/95_test_vectors.md (the vector is named) or are worked by hand from the rule named. -/

namespace Sys2Proof.Tests

open Sys2Proof Sys2Proof.Machine

/-- The program `[i, STP]` right after a reset, as W32 words. -/
def machine (i : Instr) : State := hostResetWords Params.default [encode i, 0x38000000#32]

/-- The state after one step. -/
def after (s : State) : State :=
  match step s with
  | .next t => t
  | .fault _ => s
  | .refused _ => s

/-- One step of `[i, STP]` from a start state that differs from reset by `set`. -/
def vec (i : Instr) (set : State → State) : State := after (set (machine i))

/-- `vec` with the accumulators set. -/
def vecAB (i : Instr) (a b : Word) : State := vec i fun s => { s with a := a, b := b }

/-! ### Well-formedness -/

theorem test_wf_argument : argFits (some 67108863) ∧ ¬ argFits (some 67108864) := by decide

theorem test_wf_instruction :
    (Instr.jmp (some 67108863)).wf ∧ ¬ (Instr.jmp (some 67108864)).wf ∧ (Instr.jmp none).wf := by decide

theorem test_wf_params :
    Params.default.wf ∧ ¬ ({ Params.default with maxProgramLen := 67108865 }).wf := by decide

theorem test_wf_program :
    programFits { Params.default with maxProgramLen := 1 } [⟨"LA", some 67108863⟩] ∧
    ¬ programFits { Params.default with maxProgramLen := 1 } [⟨"", none⟩, ⟨"", none⟩] ∧
    ¬ programFits { Params.default with maxProgramLen := 1 } [⟨"LA", some 67108864⟩] := by decide

theorem test_wf_record :
    (TextInstruction.mk "JE" (some 0)).wf ∧ ¬ (TextInstruction.mk "J E" (some 0)).wf ∧
    ¬ (TextInstruction.mk "" (some 0)).wf := by
  simp [TextInstruction.wf, isSpaceChar]

theorem test_wf_memory :
    Memory.wf [(0, 1#16), (1023, 2#16)] ∧ ¬ Memory.wf [(5, 1#16), (4, 1#16)] ∧
    ¬ Memory.wf [(5, 1#16), (5, 1#16)] ∧ ¬ Memory.wf [(5, 0#16)] ∧ ¬ Memory.wf [(1024, 1#16)] := by
  decide

/-! ### Decoding of words -/

/-- R71, R79: loads. -/
theorem test_decode_loads :
    decodeWord 0b00000_1_00000000000000000000000101#32 = .la (some 5) ∧
    decodeWord 0b00001_1_00000000000000000000100001#32 = .lb (some 33) ∧
    decodeWord 0b00010_1_00000000000000000011111111#32 = .lal (some 255) ∧
    decodeWord 0b00011_1_00000000000000000100000000#32 = .lbl (some 256) ∧
    decodeWord 0b00100_1_00000000000000000000000001#32 = .lah (some 1) ∧
    decodeWord 0b00101_1_00000000000000000010000000#32 = .lbh (some 128) := by
  decide

/-- R71, R79: store and halt. -/
theorem test_decode_store_and_halt :
    decodeWord 0b00110_1_00000000000000000000100110#32 = .sva (some 38) ∧
    decodeWord 0b00111_0_00000000000000000000000000#32 = .stp none := by
  decide

/-- R71, R79: alu. -/
theorem test_decode_alu :
    decodeWord 0b01000_0_00000000000000000000000000#32 = .add none ∧
    decodeWord 0b01001_0_00000000000000000000000000#32 = .sub none ∧
    decodeWord 0b01010_0_00000000000000000000000000#32 = .and none ∧
    decodeWord 0b01011_0_00000000000000000000000000#32 = .or none ∧
    decodeWord 0b01100_0_00000000000000000000000000#32 = .xor none ∧
    decodeWord 0b01101_1_00000000000000000000101000#32 = .sup (some 40) ∧
    decodeWord 0b01110_1_00000000000000000000101011#32 = .sdn (some 43) ∧
    decodeWord 0b01111_0_00000000000000000000000000#32 = .mul none ∧
    decodeWord 0b10000_0_00000000000000000000000000#32 = .inb none := by
  decide

/-- R71, R79: bank. -/
theorem test_decode_bank :
    decodeWord 0b10001_0_00000000000000000000000000#32 = .rw none ∧
    decodeWord 0b10010_0_00000000000000000000000000#32 = .rr none ∧
    decodeWord 0b10011_0_00000000000000000000000000#32 = .rc none := by
  decide

/-- R71, R79: jumps. -/
theorem test_decode_jumps :
    decodeWord 0b10100_1_00000000000000000000111101#32 = .jmp (some 61) ∧
    decodeWord 0b10101_1_00000000000000000001000000#32 = .je (some 64) ∧
    decodeWord 0b10110_1_00000000000000000001000011#32 = .jne (some 67) ∧
    decodeWord 0b10111_1_00000000000000000001000110#32 = .jg (some 70) ∧
    decodeWord 0b11000_1_00000000000000000001001001#32 = .jl (some 73) ∧
    decodeWord 0b11001_1_00000000000000000001001100#32 = .jge (some 76) ∧
    decodeWord 0b11010_1_00000000000000000001001111#32 = .jle (some 79) := by
  decide

/-- R71, R79: unknown and nop. -/
theorem test_decode_unknown_and_nop :
    decodeWord 0b11011_1_00000000000000000001010010#32 = .reserved27 (some 82) ∧
    decodeWord 0b11100_1_00000000000000000001010101#32 = .reserved28 (some 85) ∧
    decodeWord 0b11101_1_00000000000000000001011000#32 = .reserved29 (some 88) ∧
    decodeWord 0b11110_1_00000000000000000001011011#32 = .unknown (some 91) ∧
    decodeWord 0b11111_0_00000000000000000000000000#32 = .nop none := by
  decide

/-- R71: `ARG` is ignored where `P` is 0. R84, EN-11: opcode 27. -/
theorem test_decode_absent_ignores_field :
    decodeWord 0b00000_0_11111111111111111111111111#32 = .la none ∧
    decodeWord 0xD8000000#32 = .reserved27 none := by decide

/-- R71: every bit of the argument is read. -/
theorem test_decode_whole_argument :
    decodeWord 0b10100_1_11111111111111111111111111#32 = .jmp (some 67108863) ∧
    decodeWord 0b10100_1_10000000000000000000000001#32 = .jmp (some 33554433) := by decide

/-- The numbering of spec/opcode_table.json. A 32-bit row, and one too long for any instruction. -/
theorem test_decode_table_word :
    decodeTableWord 32 0x98000000 = some (.rc none) ∧
    decodeTableWord 16 0x98000005 = some (.la none) ∧ decodeTableWord 64 0 = none := by decide

/-- EN-1, EN-3, EN-6, EN-10. -/
theorem test_encode : encode (.lal (some 5)) = 0x14000005#32 ∧ encode (.add (some 5)) = 0x44000005#32 ∧
    encode (.unknown (some 3)) = 0xF4000003#32 ∧ encode (.sva (some 38)) = 0x34000026#32 := by decide

/-! ### Lines -/

/-- EN-1 to EN-7. -/
theorem test_parse :
    parseLine "LAL 5" = ⟨"LAL", some 5⟩ ∧ parseLine "ADD" = ⟨"ADD", none⟩ ∧
    parseLine "JE lbl" = ⟨"JE", some 0⟩ ∧ parseLine "" = ⟨"", none⟩ ∧
    parseLine "add" = ⟨"add", none⟩ := by decide

/-- EN-8 to EN-10, and R72 with a tab. -/
theorem test_parse_corners :
    parseLine "LA 007" = ⟨"LA", some 7⟩ ∧ parseLine "LA -3" = ⟨"LA", some 0⟩ ∧
    parseLine "SVA 38 extra" = ⟨"SVA", some 38⟩ ∧ parseLine "  LB\t33 " = ⟨"LB", some 33⟩ := by decide

/-- R75: the note under the parse vectors. -/
theorem test_format : formatInstruction (parseLine "JE lbl") = "JE 0" ∧
    formatInstruction ⟨"LA", some 1007⟩ = "LA 1007" := by decide

/-- R78. -/
theorem test_text : parseText "LAL 1\n\nSTP\n" = [⟨"LAL", some 1⟩, ⟨"", none⟩, ⟨"STP", none⟩] := by
  decide

/-- EN-4, EN-5, EN-6, EN-7: the binary column. -/
theorem test_transcribe :
    transcribe Params.default [⟨"JE", some 0⟩, ⟨"", none⟩, ⟨"FOO", some 3⟩, ⟨"add", none⟩] =
      .ok [0xAC000000#32, 0xF8000000#32, 0xF4000003#32, 0xF0000000#32] := by decide

/-- R82, D18. -/
theorem test_transcribe_refuses :
    transcribe Params.default [⟨"LA", some 1⟩, ⟨"LA", some 67108864⟩] = .error (.argumentTooLarge 1) ∧
    transcribe { Params.default with maxProgramLen := 0 } [⟨"LA", some 1⟩] = .error .programTooLong := by
  decide

/-- L1-5. -/
theorem test_is_input :
    (Instr.la (some 32)).isInput ∧ (Instr.lb (some 39)).isInput ∧ (Instr.la (some 40)).isInput ∧
    ¬ (Instr.la (some 31)).isInput ∧ ¬ (Instr.lb (some 0)).isInput ∧ ¬ (Instr.la none).isInput ∧
    ¬ (Instr.sva (some 38)).isInput ∧ ¬ (Instr.lal (some 50)).isInput := by decide

/-! ### The step cycle -/

/-- SC-1. -/
theorem test_step_first :
    let s := hostReset Params.default "LAL 1\nLAL 2"
    let t := after s
    t.ip = 1 ∧ t.clockCycle = 1 ∧ t.a = 1#16 ∧ t.running = true ∧
    stepReturns s = some (.text ⟨"LAL", some 2⟩) := by decide

/-- SC-2. -/
theorem test_step_last :
    let s := { hostReset Params.default "LAL 1\nLAL 2" with ip := 1 }
    let t := after s
    t.ip = 2 ∧ t.clockCycle = 1 ∧ t.a = 2#16 ∧ t.running = false ∧
    stepReturns s = some (.text ⟨"", none⟩) := by decide

/-- SC-6. -/
theorem test_step_fetch_range :
    let s := { hostReset Params.default "LAL 1\nLAL 2\nLAL 3" with ip := 2, clockCycle := 2, a := 2#16 }
    let t := after (hostWriteProgram (programOfText "LAL 1") s)
    t.running = false ∧ t.faultKind = .indexFault ∧ t.faultReason = .fetchRange ∧ t.faultIp = 2 ∧
    t.ip = 2 ∧ t.clockCycle = 2 := by decide

/-- SC-7, R108. -/
theorem test_step_halted : State.reset.running = false ∧ State.reset.faultKind = .none ∧
    stepReturns State.reset = none := by decide

/-- D17: a finite counter wraps. -/
theorem test_step_counter_wraps :
    (vec (.nop none) fun s =>
      { s with params := { s.params with cycleCounterWidth := some 4 }, clockCycle := 15 }).clockCycle =
      0 := by decide

/-- The first instruction after reset that `withFetchWord` places: `LAL 5`. -/
theorem test_fetch_word :
    (after (State.reset.withFetchWord 32 0x14000005)).a = 5#16 ∧
    (after (State.reset.withFetchWord 32 0x14000005)).ip = 1 := by decide

/-! ### Loads and immediates -/

/-- LD-1, LD-5 (64 mod 32 is 0). -/
theorem test_la : (vec (.la (some 3)) fun s => s.writeCache 3 0x1234#16).a = 0x1234#16 ∧
    (vec (.la (some 64)) (hostWriteInput 0 0x004D#16)).a = 0x004D#16 := by decide

/-- LD-4, LD-6. -/
theorem test_la_faults :
    (vec (.la (some 40)) id).faultReason = .inputRange ∧ (vec (.la none) id).faultReason = .missingArg ∧
    (vec (.la none) id).ip = 0 ∧ (vec (.la none) id).clockCycle = 0 := by decide

/-- LD-7, and LD-3 for `LB`. -/
theorem test_lb : (vec (.lb (some 31)) fun s => s.writeCache 31 0xFFFF#16).b = 0xFFFF#16 ∧
    (vec (.lb (some 31)) fun s => s.writeCache 31 0xFFFF#16).a = 0#16 ∧
    (vec (.lb (some 39)) (hostWriteInput 7 9#16)).b = 9#16 := by decide

/-- LD-8, LD-11, LD-12. -/
theorem test_lal : (vecAB (.lal (some 5)) 0x7F00#16 0#16).a = 5#16 ∧
    (vecAB (.lal (some 300)) 0#16 0#16).a = 0x2C#16 ∧ (vecAB (.lal (some 256)) 1#16 0#16).a = 0#16 := by
  decide

/-- LD-17. -/
theorem test_lbl : (vecAB (.lbl (some 3)) 0#16 0x7FFF#16).b = 3#16 := by decide

/-- LD-9, LD-13, LD-14. -/
theorem test_lah : (vecAB (.lah (some 128)) 0#16 0#16).a = 0x8000#16 ∧
    (vecAB (.lah (some 1)) 2#16 0#16).a = 0x0102#16 ∧
    (vecAB (.lah (some 4)) 0x0300#16 0#16).a = 0x0700#16 := by decide

/-- LD-15, LD-16. -/
theorem test_lah_wraps : (vecAB (.lah (some 256)) 0x1234#16 0#16).a = 0x1234#16 ∧
    (vecAB (.lah (some 257)) 0#16 0#16).a = 0x0100#16 := by decide

/-- LD-18. -/
theorem test_lbh : (vecAB (.lbh (some 2)) 0#16 0x20#16).b = 0x0220#16 := by decide

/-! ### Store, output, display -/

/-- ST-1, ST-2, ST-3. -/
theorem test_sva : (vecAB (.sva (some 5)) 0x2A#16 0#16).cacheSlots[5] = 0x2A#16 ∧
    (vecAB (.sva (some 5)) 0x2A#16 0#16).outHistory = [] ∧
    (vecAB (.sva (some 32)) 0xFFFF#16 0#16).outHistory = [(0, 0xFFFF#16)] ∧
    (vecAB (.sva (some 39)) 0x0102#16 0#16).outHistory = [(7, 0x0102#16)] := by decide

/-- The start of the display vectors: `a`, the history and one pending pixel. -/
def display (a : Word) (h : List (Fin 32 × Word)) (x y : Fin 64) (v : Bool) (s : State) : State :=
  { s with a := a, outHistory := h, screenbuffer := Grid.setPixel s.screenbuffer x y v }

/-- ST-4, ST-12: toggle on, then off. -/
theorem test_display_toggle :
    let t := vec (.sva (some 38)) (display 8#16 [(7, 0x0102#16)] 0 0 false)
    t.outHistory = [(7, 0x0102#16), (6, 8#16)] ∧ Grid.pixel t.screenbuffer 2 1 = true ∧
    Grid.pixel t.screenbuffer 1 2 = false ∧
    Grid.pixel (vec (.sva (some 38)) (display 8#16 [(7, 0x0102#16)] 2 1 true)).screenbuffer 2 1 = false := by
  decide

/-- ST-5. -/
theorem test_display_fault :
    let t := vecAB (.sva (some 38)) 4#16 0#16
    t.faultKind = .displayProtocolFault ∧ t.faultReason = .none ∧ t.outHistory = [] ∧ t.ip = 0 ∧
    t.clockCycle = 0 ∧ t.running = false := by decide

/-- ST-6, ST-7, ST-14. -/
theorem test_display_on :
    Grid.pixel (vec (.sva (some 70)) (display 4#16 [(7, 0x3F3F#16)] 0 0 false)).screenbuffer 63 63 = true ∧
    Grid.pixel (vec (.sva (some 38)) (display 4#16 [(7, 0xFFFF#16)] 0 0 false)).screenbuffer 63 63 = true ∧
    Grid.pixel (vec (.sva (some 38)) (display 4#16 [(7, 1#16), (3, 5#16), (7, 0x0203#16)] 0 0
      false)).screenbuffer 3 2 = true := by decide

/-- ST-8. -/
theorem test_display_other :
    let t := vec (.sva (some 38)) (display 3#16 [(7, 0#16)] 0 0 false)
    t.outHistory = [(7, 0#16), (6, 3#16)] ∧ Grid.pixel t.screenbuffer 0 0 = false := by decide

/-- ST-9, ST-10. -/
theorem test_display_refresh_and_reset :
    Grid.pixel (vec (.sva (some 38)) (display 1#16 [(7, 0#16)] 1 1 true)).screen 1 1 = true ∧
    Grid.pixel (vec (.sva (some 38)) (display 2#16 [(7, 0#16)] 1 1 true)).screenbuffer 1 1 = false ∧
    Grid.pixel (vec (.sva (some 38)) (display 2#16 [(7, 0#16)] 1 1 true)).screen 1 1 = false := by decide

/-- ST-11. -/
theorem test_display_off :
    Grid.pixel (vec (.sva (some 38)) (display 0x10#16 [(7, 0x0101#16)] 1 1 true)).screenbuffer 1 1 =
      false := by decide

/-! ### Halt -/

/-- HT-1. -/
theorem test_stp :
    let s := hostReset Params.default "STP\nLAL 1"
    let t := after s
    t.running = false ∧ t.ip = 1 ∧ t.clockCycle = 1 ∧ t.a = 0#16 ∧
    stepReturns s = some (.text ⟨"LAL", some 1⟩) := by decide

/-- HT-2. -/
theorem test_stp_last :
    let s := hostReset Params.default "STP"
    (after s).running = false ∧ (after s).ip = 1 ∧ stepReturns s = some (.text ⟨"", none⟩) := by decide

/-! ### ALU -/

/-- ALU-1, ALU-2, ALU-23. -/
theorem test_add : (vecAB (.add none) 0x7FFF#16 1#16).a = 0x8000#16 ∧
    (vecAB (.add none) 0x8000#16 0x8000#16).a = 0#16 ∧ (vecAB (.add (some 5)) 1#16 1#16).a = 2#16 := by decide

/-- ALU-3, ALU-4, ALU-5. -/
theorem test_sub : (vecAB (.sub none) 3#16 5#16).a = 0xFFFE#16 ∧
    (vecAB (.sub none) 0x8000#16 1#16).a = 0x7FFF#16 ∧
    (vecAB (.sub none) 0#16 0x8000#16).a = 0x8000#16 := by decide

/-- ALU-6. -/
theorem test_and : (vecAB (.and none) 0x00FF#16 0x0F0F#16).a = 0x000F#16 := by decide

/-- ALU-7. -/
theorem test_or : (vecAB (.or none) 0x00F0#16 0x0F00#16).a = 0x0FF0#16 := by decide

/-- ALU-8. -/
theorem test_xor : (vecAB (.xor none) 0x1234#16 0xFFFF#16).a = 0xEDCB#16 := by decide

/-- ALU-9, ALU-10, ALU-11, ALU-12. -/
theorem test_sup : (vecAB (.sup (some 2)) 3#16 0#16).a = 0xC#16 ∧
    (vecAB (.sup (some 1)) 0x4000#16 0#16).a = 0x8000#16 ∧ (vecAB (.sup (some 16)) 1#16 0#16).a = 0#16 ∧
    (vecAB (.sup (some 0)) 0xFFF9#16 0#16).a = 0xFFF9#16 := by decide

/-- ALU-13, ALU-14, ALU-16. -/
theorem test_sdn : (vecAB (.sdn (some 2)) 0xFFF8#16 0#16).a = 0xFFFE#16 ∧
    (vecAB (.sdn (some 1)) 0xFFFB#16 0#16).a = 0xFFFD#16 ∧
    (vecAB (.sdn (some 15)) 0x8000#16 0#16).a = 0xFFFF#16 := by decide

/-- ALU-17, ALU-18. -/
theorem test_sdn_long : (vecAB (.sdn (some 20)) 0x3039#16 0#16).a = 0#16 ∧
    (vecAB (.sdn none) 1#16 0#16).faultReason = .missingArg := by decide

/-- ALU-19, ALU-20, ALU-21, ALU-22. -/
theorem test_mul : (vecAB (.mul none) 0xFFFD#16 7#16).a = 0xFFEB#16 ∧
    (vecAB (.mul none) 0x100#16 0x100#16).a = 0#16 ∧ (vecAB (.mul none) 0xB6#16 0xB6#16).a = 0x8164#16 ∧
    (vecAB (.mul none) 0x8000#16 0xFFFF#16).a = 0x8000#16 := by decide

/-- ALU-24, ALU-25. -/
theorem test_inb : (vecAB (.inb none) 0#16 0x7FFF#16).b = 0x8000#16 ∧
    (vecAB (.inb none) 0#16 0xFFFF#16).b = 0#16 := by decide

/-! ### Bank window -/

/-- BK-1, BK-2. -/
theorem test_rw :
    let t := vec (.rw none) fun s => { s with a := 7#16, b := 0x20#16, loadedBankIndex := 2 }
    t.loadedBank[0] = 7#16 ∧ t.ram = [] ∧ (vecAB (.rw none) 5#16 0xFFFF#16).loadedBank[15] = 5#16 := by
  decide

/-- BK-3. -/
theorem test_rr : (vec (.rr none) fun s => (s.writeWindow 3 0x63#16).setB 0x13#16).a = 0x63#16 := by
  decide

/-- BK-4. -/
theorem test_rc :
    let t := vec (.rc none) fun s => (s.writeWindow 0 1#16).setB 0xFFFF#16
    t.ram = [(0, 1#16)] ∧ t.loadedBank[0] = 0#16 ∧ t.loadedBankIndex = 63 := by decide

/-- BK-5. -/
theorem test_rc_loaded :
    let t := vec (.rc none) fun s => (s.writeWindow 0 1#16).setB 0x000F#16
    t.ram = [] ∧ t.loadedBank[0] = 1#16 ∧ t.loadedBankIndex = 0 ∧ t.ip = 1 ∧ t.clockCycle = 1 := by
  decide

/-! ### Jumps -/

/-- JP-1, JP-2. -/
theorem test_jmp : (vecAB (.jmp (some 0)) 0#16 0#16).ip = 0 ∧
    (vecAB (.jmp (some 0)) 0#16 0#16).running = true ∧ (vecAB (.jmp (some 9)) 0#16 0#16).ip = 9 ∧
    (vecAB (.jmp (some 9)) 0#16 0#16).running = false := by decide

/-- JP-13: a jump to the end halts. -/
theorem test_jmp_end : (vecAB (.jmp (some 2)) 0#16 0#16).ip = 2 ∧
    (vecAB (.jmp (some 2)) 0#16 0#16).running = false ∧
    (vecAB (.jmp (some 2)) 0#16 0#16).faultKind = .none := by decide

/-- JP-3, JP-4. -/
theorem test_je : (vecAB (.je (some 0)) 4#16 4#16).ip = 0 ∧ (vecAB (.je (some 0)) 1#16 2#16).ip = 1 := by
  decide

/-- JP-5: the argument is needed though the jump is not taken. -/
theorem test_je_fault : (vecAB (.je none) 1#16 2#16).faultReason = .missingArg ∧
    (vecAB (.je none) 1#16 2#16).ip = 0 ∧ (vecAB (.je none) 1#16 2#16).running = false := by decide

/-- JP-6. -/
theorem test_jne : (vecAB (.jne (some 0)) 1#16 2#16).ip = 0 ∧
    (vecAB (.jne (some 0)) 2#16 2#16).ip = 1 := by decide

/-- JP-7, JP-8. -/
theorem test_jg : (vecAB (.jg (some 0)) 1#16 0xFFFF#16).ip = 0 ∧
    (vecAB (.jg (some 0)) 0x8000#16 0x8000#16).ip = 1 := by decide

/-- JP-9. -/
theorem test_jl : (vecAB (.jl (some 0)) 0x8000#16 0x7FFF#16).ip = 0 ∧
    (vecAB (.jl (some 0)) 5#16 5#16).ip = 1 := by decide

/-- JP-10. -/
theorem test_jge : (vecAB (.jge (some 0)) 5#16 5#16).ip = 0 ∧
    (vecAB (.jge (some 0)) 0xFFFF#16 0#16).ip = 1 := by decide

/-- JP-11, JP-12. -/
theorem test_jle : (vecAB (.jle (some 0)) 0x8000#16 0#16).ip = 0 ∧
    (vecAB (.jle (some 0)) 1#16 0#16).ip = 1 := by decide

/-! ### No-operation and unrecognised instructions -/

/-- SC-3. -/
theorem test_nop :
    let s := hostReset Params.default "\nSTP"
    (after s).ip = 1 ∧ (after s).clockCycle = 1 ∧ stepReturns s = some (.text ⟨"STP", none⟩) := by decide

/-- `UNKNOWN_OP_POLICY = FAULT`, D3. -/
def faultPolicy : Params := { Params.default with unknownOpPolicy := .fault }

/-- SC-4, SC-5. -/
theorem test_unknown :
    (after (hostReset Params.default "FOO 2\nSTP")).ip = 1 ∧
    (after (hostReset Params.default "FOO 2\nSTP")).faultKind = .none ∧
    (after (hostReset faultPolicy "FOO 2\nSTP")).faultKind = .illegalInstruction ∧
    (after (hostReset faultPolicy "FOO 2\nSTP")).ip = 0 ∧
    (after (hostReset faultPolicy "FOO 2\nSTP")).running = false := by decide

/-- R84: the reserved opcodes, under both policies. -/
theorem test_reserved :
    ∀ i ∈ [Instr.reserved27 none, .reserved28 (some 1), .reserved29 none],
      (vec i id).ip = 1 ∧ (vec i id).faultKind = .none ∧
      (vec i fun s => { s with params := faultPolicy }).faultKind = .illegalInstruction := by decide

/-! ### Witnesses: for each statement with hypotheses, a state and operands that meet them, and one for
each clause, at the boundary values of its range -/

/-- DecodeOfEncodeIsTheInstruction: the largest argument. -/
theorem witness_DecodeOfEncode : (Instr.la (some 67108863)).wf := by decide

/-- EncodeOfDecodeIsTheWord: with and without an argument. -/
theorem witness_EncodeOfDecode :
    ((0x07FFFFFF#32).getLsbD 26 = false → (0x07FFFFFF#32).extractLsb' 0 26 = 0#26) ∧
    ((0x40000000#32).getLsbD 26 = false → (0x40000000#32).extractLsb' 0 26 = 0#26) := by decide

/-- TranscriptionKeepsEveryInstruction: both clauses. -/
theorem witness_Transcription :
    transcribe Params.default [⟨"LAL", some 5⟩] = .ok [0x14000005#32] ∧
    programFits Params.default [⟨"LAL", some 67108863⟩] := by decide

/-- TranscriberRefusesByName: a program of exactly the maximal length with its last line too large, and
the same program one line too long. -/
theorem witness_TranscriberRefuses :
    let lines : List TextInstruction := [⟨"LA", some 67108863⟩, ⟨"LA", some 67108864⟩]
    transcribe { Params.default with maxProgramLen := 2 } lines = .error (.argumentTooLarge 1) ∧
    transcribe { Params.default with maxProgramLen := 1 } lines = .error .programTooLong := by decide

/-- ParseOfFormatIsTheRecord: a record with an argument, and the empty one. -/
theorem witness_ParseOfFormat :
    (TextInstruction.mk "SVA" (some 38)).wf ∧ (TextInstruction.mk "" none).wf := by
  simp [TextInstruction.wf, isSpaceChar]

/-- TokensDecideTheRecord: each clause, with a decimal and another second token. -/
theorem witness_Tokens :
    tokens "  ".toList = [] ∧ tokens "ADD".toList = ["ADD".toList] ∧
    tokens "LA 7 x".toList = ["LA".toList, "7".toList, "x".toList] ∧ isDecimalLiteral "7".toList ∧
    tokens "JE lbl".toList = ["JE".toList, "lbl".toList] ∧ ¬ isDecimalLiteral "lbl".toList := by decide

/-- LinesOfTextAreReadBack. -/
theorem witness_Lines :
    (∀ l ∈ ["ADD".toList, []], '\n' ∉ l) ∧ '\n' ∉ "STP".toList ∧ "STP".toList ≠ [] := by decide

/-- NamesDecodeExactly: the first and the last mnemonic, and a name that is none. -/
theorem witness_Names :
    (Instr.la (some 1)).opcode.toNat < 27 ∧ (Instr.jle none).opcode.toNat < 27 ∧
    "FOO" ∉ mnemonicTable.map Prod.fst := by decide

/-- StepRunsTheDecodedInstruction: a text line and a word. -/
theorem witness_StepRuns :
    (hostReset Params.default "ADD").running = true ∧
    (hostReset Params.default "ADD").program[(0 : Nat)]? = some (.text ⟨"ADD", none⟩) ∧
    (machine (.add none)).running = true ∧
    (machine (.add none)).program[(1 : Nat)]? = some (.word 0x38000000#32) := by decide

/-- FetchBeyondProgramFaults: a pointer exactly at the end. -/
theorem witness_FetchBeyond :
    ({ machine (.add none) with ip := 2 }).running = true ∧
    ({ machine (.add none) with ip := 2 }).program.length ≤ 2 := by decide

/-- HaltedExactlyWhenNoStep: both clauses. -/
theorem witness_Halted : State.reset.running = false ∧ (machine (.add none)).running = true := by decide

/-- StepReturnsTheNextInstruction: inside the program, at its end, after a fault. -/
theorem witness_StepReturns :
    (machine (.add none)).faultKind = .none ∧
    (∃ t, step (machine (.add none)) = .next t ∧ t.faultKind = .none ∧ t.ip < t.program.length) ∧
    (∃ t, step (machine (.jmp (some 2))) = .next t ∧ t.faultKind = .none ∧ t.program.length ≤ t.ip) ∧
    (∃ t, step (machine (.la none)) = .next t ∧ t.faultKind ≠ .none) :=
  ⟨by decide, ⟨_, rfl, by decide⟩, ⟨_, rfl, by decide⟩, ⟨_, rfl, by decide⟩⟩

/-- NoFaultWithoutItsCause: each of the four causes, from states without a fault. -/
theorem witness_NoFault :
    State.reset.faultKind = .none ∧ faultPolicy.unknownOpPolicy = .fault ∧
    (∃ t, exec (.jle none) State.reset = .next t ∧ t.faultKind ≠ .none) ∧
    (∃ t, exec (.la (some 40)) State.reset = .next t ∧ t.faultKind ≠ .none) ∧
    (∃ t, exec (.sva (some 38)) State.reset = .next t ∧ t.faultKind ≠ .none) ∧
    (∃ t, exec (.reserved27 none) (State.initial faultPolicy []) = .next t ∧ t.faultKind ≠ .none) :=
  ⟨by decide, by decide, ⟨_, rfl, by decide⟩, ⟨_, rfl, by decide⟩, ⟨_, rfl, by decide⟩,
    ⟨_, rfl, by decide⟩⟩

/-- OneInstructionWritesLittle, NoInstructionReadsTheCounter, NoInstructionWritesHostState,
EffectiveRamChangesOnlyByWindowWrites, BankStateHasItsWriters: a bank change, which changes `ram`, the
window and the bank, and an `RW`, which changes the window only. -/
theorem witness_ExecNext :
    (∃ t, exec (.rc none) ((State.reset.writeWindow 0 1#16).setB 0x10#16) = .next t ∧
      t.loadedBankIndex ≠ 0 ∧ t.ram ≠ [] ∧ t.loadedBank[0] = 0#16) ∧
    (∃ t, exec (.rw none) (State.reset.setA 1#16) = .next t ∧ t.loadedBankIndex = 0 ∧
      t.loadedBank[0] = 1#16) :=
  ⟨⟨_, rfl, by decide⟩, ⟨_, rfl, by decide⟩⟩

/-- OneInstructionWritesLittle: a store to the last cache slot and one to the first output register. -/
theorem witness_OneInstruction :
    (∃ t, exec (.sva (some 31)) (State.reset.setA 1#16) = .next t ∧ t.cacheSlots[31] = 1#16 ∧
      t.cacheSlots[30] = 0#16 ∧ Fin.ofNat 32 31 = 31) ∧
    (∃ t, exec (.sva (some 32)) (State.reset.setA 1#16) = .next t ∧
      t.outHistory = [(Fin.ofNat 32 32, 1#16)]) :=
  ⟨⟨_, rfl, by decide⟩, ⟨_, rfl, by decide⟩⟩

/-- OnlyInputLoadsSeeTheInputs: `LA 31` is no input load. -/
theorem witness_OnlyInputLoads :
    (Instr.la (some 31)).isInput = false ∧ ∃ t, exec (.la (some 31)) State.reset = .next t :=
  ⟨by decide, _, rfl⟩

/-- A running machine has the invariant. -/
theorem machine_inv : (machine (.add none)).Inv where
  ramWf := by decide
  runningNoFault := by decide
  reasonOfIndexFault := by decide
  noFaultNoIp := by decide
  illegalOnlyUnderPolicy := by decide
  counterInWidth := by decide
  runningIpInProgram := by decide

/-- EveryStepKeepsTheInvariant. -/
theorem witness_StepInvariant :
    (machine (.add none)).Inv ∧ ∃ t, step (machine (.add none)) = .next t := ⟨machine_inv, _, rfl⟩

/-- EveryHostActionKeepsTheHostInvariant: a host that takes the program away. -/
theorem witness_HostInvariant : (machine (.add none)).HostInv ∧
    ∃ t, hostAct (.writeProgram []) (machine (.add none)) = .next t ∧ t.running = true :=
  ⟨machine_inv.toHostInv, _, rfl, by decide⟩

/-- OnlyResetRestartsOrClearsAFault: a halted machine, and a faulted one. -/
theorem witness_OnlyReset :
    ((machine (.add none)).halt.HostInv ∧ (machine (.add none)).halt.running = false) ∧
    ((takeFault .missingArg (machine (.la none))).HostInv ∧
      (takeFault .missingArg (machine (.la none))).faultKind ≠ .none) ∧
    (∃ t, hostAct (.writeInput 0 5#16) (takeFault .missingArg (machine (.la none))) = .next t) ∧
    ∀ p text, HostAction.writeInput 0 5#16 ≠ .reset p text :=
  ⟨⟨⟨by decide, by decide, by decide, by decide, by decide, by decide⟩, by decide⟩,
    ⟨⟨by decide, by decide, by decide, by decide, by decide, by decide⟩, by decide⟩,
    ⟨_, rfl⟩, by intro p text h; cases h⟩

/-- RunCountsItsCompletedSteps, RunOnlyAppendsToTheHistory: a run of two steps that ends normally, and
one whose second step faults. -/
theorem witness_Run :
    (machine (.add none)).params.cycleCounterWidth = none ∧ (machine (.add none)).faultKind = .none ∧
    (∃ t, Host.Core.run Sys2Proof.core 2 (machine (.add none)) = .next t ∧ t.faultKind = .none) ∧
    (∃ t, Host.Core.run Sys2Proof.core 2
        (hostResetWords Params.default [0x34000020#32, 0x00000000#32]) = .next t ∧
      t.faultKind ≠ .none ∧ t.outHistory = [(0, 0#16)]) :=
  ⟨by decide, by decide, ⟨_, rfl, by decide⟩, ⟨_, rfl, by decide⟩⟩

/-- RequiredArgumentMissingFaults, IgnoredArgumentHasNoEffect. -/
theorem witness_Classes :
    argClass (.jle none) = .required ∧ (Instr.jle none).arg = none ∧
    argClass (instrOfOpcode 8#5 none) = .ignored ∧ argClass (instrOfOpcode 27#5 none) = .ignored := by
  decide

/-- LoadsReadCacheOrInput: each clause at its boundaries (31; 32, 39, 64; 40, 63). -/
theorem witness_Loads :
    31 < 32 ∧ (32 ≤ 32 ∧ 32 % 32 < 8) ∧ (32 ≤ 39 ∧ 39 % 32 < 8) ∧ (32 ≤ 64 ∧ 64 % 32 < 8) ∧
    (32 ≤ 40 ∧ 8 ≤ 40 % 32) ∧ (32 ≤ 63 ∧ 8 ≤ 63 % 32) := by decide

/-- LoadsReadCacheOrInput at 31, 32, 39, 40, 63 and 64: the six loads have the three outcomes. -/
theorem test_load_boundaries :
    let f : State → State := fun s => hostWriteInput 7 9#16 (hostWriteInput 0 8#16 (s.writeCache 31 7#16))
    (vec (.la (some 31)) f).a = 7#16 ∧ (vec (.la (some 32)) f).a = 8#16 ∧
    (vec (.la (some 39)) f).a = 9#16 ∧ (vec (.la (some 40)) f).faultReason = .inputRange ∧
    (vec (.la (some 63)) f).faultReason = .inputRange ∧ (vec (.la (some 64)) f).a = 8#16 := by decide

/-- TwoImmediatesBuildAnyConstant: both signs, at the bounds. -/
theorem witness_Immediates :
    (255 < 256 ∧ 127 < 256 ∧ 127 < 128) ∧ (0 < 256 ∧ 128 < 256 ∧ 128 ≤ 128) := by decide

/-- StoreWritesCacheOrAppends: each clause at its boundaries (31; 32, 37, 39, 63). -/
theorem witness_Store :
    31 < 32 ∧ (32 ≤ 32 ∧ 32 % 32 ≠ 6) ∧ (32 ≤ 37 ∧ 37 % 32 ≠ 6) ∧ (32 ≤ 39 ∧ 39 % 32 ≠ 6) ∧
    (32 ≤ 63 ∧ 63 % 32 ≠ 6) := by decide

/-- DisplayWithoutPositionFaults: 38 and 70, with and without an earlier entry. -/
theorem witness_DisplayPosition :
    (32 ≤ 38 ∧ 38 % 32 = 6) ∧ (32 ≤ 70 ∧ 70 % 32 = 6) ∧
    (∀ v, ((7 : Fin 32), v) ∉ State.reset.outHistory) ∧
    ∃ v, ((7 : Fin 32), v) ∈ (State.reset.emit 7 0x0102#16).outHistory :=
  ⟨by decide, by decide, (by intro v h; cases h), 0x0102#16, by decide⟩

/-- DisplayCommandsRunAtTheLastPosition: the corner pixel, whatever `a` is. -/
theorem witness_DisplayCommands :
    (32 ≤ 38 ∧ 38 % 32 = 6) ∧ decodePosition 0x3F3F#16 = (63, 63) ∧
    ∀ v : Word, ((State.reset.emit 7 0x3F3F#16).setA v).a = v ∧
      lastPosition ((State.reset.emit 7 0x3F3F#16).setA v).outHistory = some 0x3F3F#16 :=
  ⟨by decide, by decide, fun _ => ⟨rfl, rfl⟩⟩

/-- `SCREEN_OP_MODE = FLAGS`. -/
def flagsMode : Params := { Params.default with screenOpMode := .flags }

/-- OtherDisplayValuesAreOnlyRecorded: ENUM with two command bits, FLAGS with none and with two. -/
theorem witness_OtherDisplay :
    (32 ≤ 38 ∧ 38 % 32 = 6) ∧ lastPosition (State.reset.emit 7 0#16).outHistory = some 0#16 ∧
    lastPosition ((State.initial flagsMode []).emit 7 0#16).outHistory = some 0#16 ∧
    State.reset.params.screenOpMode = .enum ∧ (State.initial flagsMode []).params.screenOpMode = .flags ∧
    (0x0003#16 ∉ [0x0001#16, 0x0002#16, 0x0004#16, 0x0008#16, 0x0010#16] ∧
      severalCommandBits 0x0003#16 = true) ∧
    (0x0020#16 ∉ [0x0001#16, 0x0002#16, 0x0004#16, 0x0008#16, 0x0010#16] ∧
      severalCommandBits 0x0020#16 = false) := by decide

/-- GridsChangeOnlyByTheirCommands: a refresh and an `on` change their grids. -/
theorem witness_Grids :
    State.reset.params.screenOpMode = .enum ∧
    (∃ t, exec (.sva (some 38)) (display 1#16 [(7, 0#16)] 1 1 true State.reset) = .next t ∧
      Grid.pixel t.screen 1 1 ≠ Grid.pixel State.reset.screen 1 1) ∧
    (∃ t, exec (.sva (some 38)) (display 4#16 [(7, 0#16)] 1 1 true State.reset) = .next t ∧
      Grid.pixel t.screenbuffer 0 0 ≠ Grid.pixel State.reset.screenbuffer 0 0) :=
  ⟨by decide, ⟨_, rfl, by decide⟩, ⟨_, rfl, by decide⟩⟩

/-- StopClearsTheRunFlag: an `STP` with an instruction after it. -/
theorem witness_Stop :
    let s := machine (.stp none)
    s.running = true ∧ s.faultKind = .none ∧ s.program[s.ip]? = some (.word (encode (.stp none))) ∧
    decodeEntry (.word (encode (.stp none))) = .stp none ∧ s.ip + 1 < s.program.length := by decide

/-- NoOpsAndUnrecognisedInstructions: both policies. -/
theorem witness_Policies :
    State.reset.params.unknownOpPolicy = .nop ∧
    (State.initial faultPolicy []).params.unknownOpPolicy = .fault := by decide

/-- LongShiftsLeaveZeroOrSign: both bounds. -/
theorem witness_LongShifts : 16 ≤ 16 ∧ 15 ≤ 15 ∧ sval 0x8000#16 < 0 ∧ ¬ sval 0x7FFF#16 < 0 := by decide

/-- WindowReadsAndWrites: two values of `b` with the same index. -/
theorem witness_Window : windowIndex 0xFFF3#16 = windowIndex (State.reset.setB 0x0013#16).b := by decide

/-- BankChangeWritesBackAndReloads: both clauses, and both sides of the bounds of the bank written
back. -/
theorem witness_BankChange :
    targetBank 0x000F#16 = State.reset.loadedBankIndex ∧
    targetBank 0xFFFF#16 ≠ State.reset.loadedBankIndex ∧
    (∀ k ∈ [0, 15], 16 * State.reset.loadedBankIndex.val ≤ k ∧
      k < 16 * State.reset.loadedBankIndex.val + 16) ∧
    ¬ (16 < 16 * State.reset.loadedBankIndex.val + 16) := by decide

/-- BankChangeAndBackRestoresTheWindow: from bank 2. -/
theorem witness_BankBack :
    targetBank 0x0020#16 = ({ State.reset with loadedBankIndex := 2 }).loadedBankIndex := by decide

/-- RunOffHaltsWithoutFault: by a jump taken to the end of the program. -/
theorem witness_RunOff :
    let s := machine (.jmp (some 2))
    s.faultKind = .none ∧ s.ip < s.program.length ∧ ∃ t, step s = .next t ∧ s.program.length ≤ t.ip :=
  ⟨by decide, by decide, _, rfl, by decide⟩

/-- RunOffHaltsWithoutFault: by a jump not taken at the last index. -/
theorem witness_RunOff_fallThrough :
    let s := hostResetWords Params.default [encode (.jne (some 0))]
    s.faultKind = .none ∧ s.ip < s.program.length ∧ ∃ t, step s = .next t ∧ s.program.length ≤ t.ip :=
  ⟨by decide, by decide, _, rfl, by decide⟩

/-- HostWritesAreSeenByTheNextStep: a program that still holds the pointer, and one that ends at it. -/
theorem witness_HostWrites :
    (machine (.add none)).running = true ∧ (machine (.add none)).ip < [ProgramEntry.sentinel].length ∧
    ([] : List ProgramEntry).length ≤ (machine (.add none)).ip := by decide

end Sys2Proof.Tests
end

section
/-! The statements on the state (10_state.md): the invariants of R40, what no instruction writes or
reads, the history, the grids, the bank, and the reset. -/

namespace Sys2Proof.Machine

/-! ### Faults and their causes -/

/-- R241: a fault always leaves a kind. -/
theorem Raise.kind_ne_none (r : Raise) : r.kind ≠ .none := by cases r <;> decide

/-- R30, R241: exactly the index faults have a reason. -/
theorem Raise.reason_ne_none_iff (r : Raise) : r.reason ≠ .none ↔ r.kind = .indexFault := by
  cases r <;> decide

/-- R106: an illegal instruction is raised under the policy `FAULT` only. -/
theorem Raises.policy_of_illegal {i : Instr} {s : State} {r : Raise} (h : Raises i s r)
    (hk : r.kind = .illegalInstruction) : s.params.unknownOpPolicy = .fault := by
  cases h with
  | illegal hp => exact hp
  | missingArg | inputRange | display => cases hk

/-- R101, R107: a step is a fetch fault or the execution of some instruction. -/
theorem step_fetchFault_or_exec {s t : State} (h : step s = .next t) :
    t = takeFault .fetchRange s ∨ ∃ i, exec i s = .next t := by
  obtain ⟨-, ⟨-, ht⟩ | ⟨entry, -, ht⟩⟩ := step_next h
  · exact .inl ht
  · exact .inr ⟨decodeEntry entry, ht ▸ exec_eq _ s⟩

/-! ### What the execute parts with a choice compute -/

theorem bind_need_some (n : Nat) (f : Nat → Except Raise State) :
    (need (some n) >>= f) = f n := rfl

theorem executeLa_some (n : Nat) (s : State) :
    executeLa (some n) s = (s.loadSelected n).map s.setA := by
  rw [executeLa, bind_need_some]
  cases s.loadSelected n <;> rfl

theorem executeLb_some (n : Nat) (s : State) :
    executeLb (some n) s = (s.loadSelected n).map s.setB := by
  rw [executeLb, bind_need_some]
  cases s.loadSelected n <;> rfl

theorem executeSva_cache (s : State) {n : Nat} (h : n < 32) :
    executeSva (some n) s = .ok (s.writeCache ⟨n, h⟩ s.a) := by
  rw [executeSva, bind_need_some, selector_cache h]; rfl

theorem executeSva_device (s : State) {n : Nat} (h : 32 ≤ n) :
    executeSva (some n) s = s.writeOutput ⟨n % 32, Nat.mod_lt _ (by decide)⟩ s.a := by
  rw [executeSva, bind_need_some, selector_device h]

theorem executeJumpIf_some (c : Condition) (n : Nat) (s : State) :
    executeJumpIf c (some n) s = .ok (if c.holds s.a s.b then s.setIp n else s) := rfl

/-- R205: `RC` to the loaded bank does nothing. -/
theorem executeRc_loaded {s : State} (arg : Option Nat) (h : targetBank s.b = s.loadedBankIndex) :
    executeRc arg s = .ok s := by simp [executeRc, h]

theorem executeRc_other {s : State} (arg : Option Nat) (h : targetBank s.b ≠ s.loadedBankIndex) :
    executeRc arg s = .ok (s.switchBank (targetBank s.b)) := by simp [executeRc, h]

/-! ### What an effect does to the memory, the history and the bank -/

/-- R101: no effect starts the machine. -/
theorem Effect.running_of_running {i : Instr} {s t : State} (h : Effect i s t)
    (ht : t.running = true) : s.running = true := by
  cases h with
  | stop => cases ht
  | nothing | setA | setB | jump | cache | output | display | window | bank => simpa using ht

/-- R27 to R29: `RC` alone writes `ram` and the bank index, `RC` and `RW` alone the window. -/
theorem Effect.bank_writers {i : Instr} {s t : State} (h : Effect i s t) :
    (t.ram = s.ram ∧ t.loadedBankIndex = s.loadedBankIndex ∧
      (t.loadedBank = s.loadedBank ∨ ∃ arg, i = .rw arg)) ∨
    ∃ arg, i = .rc arg ∧ t = s.switchBank (targetBank s.b) := by
  cases h with
  | bank arg hi => exact .inr ⟨arg, hi, rfl⟩
  | window arg hi => exact .inl ⟨rfl, rfl, .inr ⟨arg, hi⟩⟩
  | nothing | setA | setB | jump | stop | cache | output | display => simp

theorem Effect.ram_wf {i : Instr} {s t : State} (h : Effect i s t) (hs : s.ram.wf) : t.ram.wf := by
  rcases h.bank_writers with ⟨hram, -⟩ | ⟨-, -, rfl⟩
  · rwa [hram]
  · exact State.wf_writtenBack hs

/-- R34: an effect appends at most one history entry. -/
theorem Effect.outHistory_append {i : Instr} {s t : State} (h : Effect i s t) :
    ∃ new, t.outHistory = s.outHistory ++ new ∧ new.length ≤ 1 := by
  cases h with
  | output n r => exact ⟨[(r, s.a)], rfl, le_rfl⟩
  | display n p => exact ⟨[(6, s.a)], by simp, le_rfl⟩
  | nothing | setA | setB | jump | stop | cache | window | bank => exact ⟨[], by simp, by simp⟩

/-! ### The invariants of R40 -/

/-- R26: the count after one more step is within a finite width. -/
theorem Params.nextCycle_lt {p : Params} {width : Nat} (h : width ∈ p.cycleCounterWidth)
    (n : Nat) : Params.nextCycle p n < 2 ^ width := by
  have hw : p.cycleCounterWidth = some width := h
  simp only [Params.nextCycle, hw]
  exact Nat.mod_lt _ (Nat.two_pow_pos width)

/-- R26: an unbounded counter adds one. -/
theorem Params.nextCycle_unbounded {p : Params} (h : p.cycleCounterWidth = none) (n : Nat) :
    Params.nextCycle p n = n + 1 := by simp [Params.nextCycle, h]

theorem State.HostInv.after_takeFault {s : State} (hs : s.HostInv) {r : Raise}
    (hp : r.kind = .illegalInstruction → s.params.unknownOpPolicy = .fault) :
    (takeFault r s).HostInv where
  ramWf := hs.ramWf
  runningNoFault := by simp
  reasonOfIndexFault := r.reason_ne_none_iff
  noFaultNoIp := fun h => absurd h r.kind_ne_none
  illegalOnlyUnderPolicy := hp
  counterInWidth := hs.counterInWidth

theorem State.HostInv.after_effect {i : Instr} {s t : State} (hs : s.HostInv) (h : Effect i s t) :
    t.HostInv := by
  obtain ⟨-, hparams, -, hclock, hkind, hreason, hip⟩ := h.unchanged
  constructor
  · exact h.ram_wf hs.ramWf
  · exact fun hr => hkind ▸ hs.runningNoFault (h.running_of_running hr)
  · rw [hkind, hreason]; exact hs.reasonOfIndexFault
  · rw [hkind, hip]; exact hs.noFaultNoIp
  · rw [hkind, hparams]; exact hs.illegalOnlyUnderPolicy
  · rw [hparams, hclock]; exact hs.counterInWidth

theorem State.HostInv.after_advance {s : State} (hs : s.HostInv) : s.advance.HostInv :=
  ⟨hs.ramWf, hs.runningNoFault, hs.reasonOfIndexFault, hs.noFaultNoIp, hs.illegalOnlyUnderPolicy,
    hs.counterInWidth⟩

theorem State.HostInv.after_tick {s : State} (hs : s.HostInv) : s.tick.HostInv :=
  ⟨hs.ramWf, hs.runningNoFault, hs.reasonOfIndexFault, hs.noFaultNoIp, hs.illegalOnlyUnderPolicy,
    fun _ hw => Params.nextCycle_lt hw _⟩

theorem State.HostInv.after_endCheck {s : State} (hs : s.HostInv) : s.endCheck.HostInv where
  ramWf := by simpa using hs.ramWf
  runningNoFault := by simpa using fun hr _ => hs.runningNoFault hr
  reasonOfIndexFault := by simpa using hs.reasonOfIndexFault
  noFaultNoIp := by simpa using hs.noFaultNoIp
  illegalOnlyUnderPolicy := by simpa using hs.illegalOnlyUnderPolicy
  counterInWidth := by simpa using hs.counterInWidth

/-- R40: every instruction keeps `HostInv`. -/
theorem State.HostInv.after_exec {i : Instr} {s t : State} (hs : s.HostInv)
    (h : exec i s = .next t) : t.HostInv := by
  rcases exec_cases h with ⟨r, hr, rfl⟩ | ⟨u, hu, rfl⟩
  · exact hs.after_takeFault hr.policy_of_illegal
  · exact (hs.after_advance.after_effect hu).after_tick.after_endCheck

theorem State.HostInv.after_step {s t : State} (hs : s.HostInv) (h : step s = .next t) :
    t.HostInv := by
  rcases step_fetchFault_or_exec h with rfl | ⟨i, hi⟩
  · exact hs.after_takeFault (by simp [Raise.kind])
  · exact hs.after_exec hi

/-- R101: after a step a running machine's pointer is inside the program, whatever the state before
it: the step ends in a halt or in the end-of-program check. -/
theorem step_ip_inside {s t : State} (h : step s = .next t) (hr : t.running = true) :
    t.ip < t.program.length := by
  obtain ⟨-, ⟨r, rfl⟩ | ⟨i, u, -, rfl⟩⟩ := step_cases h
  · cases hr
  · simp only [State.endCheck_running, Bool.and_eq_true, decide_eq_true_eq] at hr
    simpa using hr.2

/-- R38, R40: the state after a reset with any program meets the invariant. -/
theorem State.initial_inv (p : Params) (program : List ProgramEntry) :
    (State.initial p program).Inv where
  ramWf := Memory.wf_nil
  runningNoFault := fun _ => rfl
  reasonOfIndexFault := by simp [State.initial]
  noFaultNoIp := fun _ => rfl
  illegalOnlyUnderPolicy := by simp [State.initial]
  counterInWidth := fun width _ => Nat.two_pow_pos width
  runningIpInProgram := by simp [State.initial]

theorem State.HostInv.after_hostWriteInput {s : State} (hs : s.HostInv) (i : Fin 8) (v : Word) :
    (hostWriteInput i v s).HostInv :=
  ⟨hs.ramWf, hs.runningNoFault, hs.reasonOfIndexFault, hs.noFaultNoIp, hs.illegalOnlyUnderPolicy,
    hs.counterInWidth⟩

theorem State.HostInv.after_hostWriteProgram {s : State} (hs : s.HostInv)
    (program : List ProgramEntry) : (hostWriteProgram program s).HostInv :=
  ⟨hs.ramWf, hs.runningNoFault, hs.reasonOfIndexFault, hs.noFaultNoIp, hs.illegalOnlyUnderPolicy,
    hs.counterInWidth⟩

/-- Settles O20: `HostInv` is kept by the fault or the effect of the step, and the end-of-program
check gives the part on the pointer. -/
theorem everyStepKeepsTheInvariant : Obligations.EveryStepKeepsTheInvariant := by
  intro s t hs h
  exact ⟨hs.toHostInv.after_step h, step_ip_inside h⟩

/-- Settles O22, by cases on the action. -/
theorem everyHostActionKeepsTheHostInvariant :
    Obligations.EveryHostActionKeepsTheHostInvariant := by
  intro act s t hs h
  cases act with
  | reset p text => cases h; exact (State.initial_inv p _).toHostInv
  | step => exact hs.after_step h
  | writeInput i v => cases h; exact hs.after_hostWriteInput i v
  | writeProgram program => cases h; exact hs.after_hostWriteProgram program

/-- Settles O21: each reset is the initial state of some program. -/
theorem resetHasTheInvariant : Obligations.ResetHasTheInvariant :=
  ⟨State.initial_inv _ _, fun p _ => State.initial_inv p _, fun p _ => State.initial_inv p _⟩

/-! ### What no instruction writes -/

theorem exec_keeps_hostState {i : Instr} {s t : State} (h : exec i s = .next t) :
    t.program = s.program ∧ t.inputs = s.inputs ∧ t.params = s.params := by
  rcases exec_cases h with ⟨r, -, rfl⟩ | ⟨u, hu, rfl⟩
  · simp
  · obtain ⟨hprogram, hparams, hinputs, -⟩ := hu.unchanged
    simp [hprogram, hparams, hinputs]

/-- Settles O19: neither a fault nor an effect touches the host's fields. -/
theorem noInstructionWritesHostState : Obligations.NoInstructionWritesHostState :=
  fun _ _ _ h => exec_keeps_hostState h

/-! ### Runs -/

/-- R108: the only run from a halted machine has no step. -/
theorem core_run_halted {n : Nat} {s t : State} (hs : s.running = false)
    (h : Host.Core.run Sys2Proof.core n s = .next t) : n = 0 ∧ t = s := by
  cases n with
  | zero => cases h; exact ⟨rfl, rfl⟩
  | succ n =>
    obtain ⟨u, hu, -⟩ := core_run_succ_next h
    rw [step_halted hs] at hu
    cases hu

theorem step_keeps_params {s t : State} (h : step s = .next t) : t.params = s.params := by
  rcases step_fetchFault_or_exec h with rfl | ⟨i, hi⟩
  · rfl
  · exact (exec_keeps_hostState hi).2.2

/-- R26, R243: a step halts the machine with a fault and the same count, or keeps the fault status
and counts one. -/
theorem step_counts {s t : State} (h : step s = .next t) :
    (t.faultKind ≠ .none ∧ t.running = false ∧ t.clockCycle = s.clockCycle) ∨
      (t.faultKind = s.faultKind ∧ t.clockCycle = Params.nextCycle s.params s.clockCycle) := by
  obtain ⟨-, ⟨r, rfl⟩ | ⟨i, u, hu, rfl⟩⟩ := step_cases h
  · exact .inl ⟨r.kind_ne_none, rfl, rfl⟩
  · obtain ⟨-, hparams, -, hclock, hkind, -⟩ := hu.unchanged
    exact .inr (by simp [hparams, hclock, hkind])

/-- Settles O24, by induction on the number of steps: a step that faults is the last one. -/
theorem runCountsItsCompletedSteps : Obligations.RunCountsItsCompletedSteps := by
  intro n
  induction n with
  | zero => intro s t _ hs h; cases h; simp [hs]
  | succ n ih =>
    intro s t hwidth hs h
    obtain ⟨u, hu, hrun⟩ := core_run_succ_next h
    rcases step_counts hu with ⟨hfault, hhalt, hclock⟩ | ⟨hkind, hclock⟩
    · obtain ⟨rfl, rfl⟩ := core_run_halted hhalt hrun
      simp [hfault, hhalt, hclock]
    · rw [Params.nextCycle_unbounded hwidth] at hclock
      obtain ⟨hnormal, hfaulted⟩ := ih u t (step_keeps_params hu ▸ hwidth) (hkind.trans hs) hrun
      refine ⟨fun ht => ?_, fun ht => ?_⟩
      · have := hnormal ht; omega
      · obtain ⟨hcount, hhalt⟩ := hfaulted ht
        exact ⟨by omega, hhalt⟩

/-- R34: a step appends at most one history entry. -/
theorem step_outHistory_append {s t : State} (h : step s = .next t) :
    ∃ new, t.outHistory = s.outHistory ++ new ∧ new.length ≤ 1 := by
  obtain ⟨-, ⟨r, rfl⟩ | ⟨i, u, hu, rfl⟩⟩ := step_cases h
  · exact ⟨[], by simp⟩
  · simpa using hu.outHistory_append

/-- Settles O25, by induction on the number of steps. -/
theorem runOnlyAppendsToTheHistory : Obligations.RunOnlyAppendsToTheHistory := by
  intro n
  induction n with
  | zero => intro s t h; cases h; exact ⟨[], by simp⟩
  | succ n ih =>
    intro s t h
    obtain ⟨u, hu, hrun⟩ := core_run_succ_next h
    obtain ⟨new, hnew, hlen⟩ := step_outHistory_append hu
    obtain ⟨rest, hrest, hlen'⟩ := ih u t hrun
    exact ⟨new ++ rest, by rw [hrest, hnew, List.append_assoc], by
      rw [List.length_append]; omega⟩

/-! ### What no instruction reads -/

/-- The state with another count and other inputs: two fields that most instructions do not read. -/
def State.withCountAndInputs (s : State) (c : Nat) (inputs : Vector Word 8) : State :=
  { s with clockCycle := c, inputs := inputs }

theorem State.withCountAndInputs_advance (s : State) (c : Nat) (inputs : Vector Word 8) :
    (s.withCountAndInputs c inputs).advance = s.advance.withCountAndInputs c inputs := rfl

theorem takeFault_withCountAndInputs (r : Raise) (s : State) (c : Nat) (inputs : Vector Word 8) :
    takeFault r (s.withCountAndInputs c inputs) = (takeFault r s).withCountAndInputs c inputs := rfl

theorem State.endCheck_withCountAndInputs (s : State) (c : Nat) (inputs : Vector Word 8) :
    (s.withCountAndInputs c inputs).endCheck = s.endCheck.withCountAndInputs c inputs := by
  by_cases h : s.program.length ≤ s.ip <;> simp [State.endCheck, State.withCountAndInputs, h]

/-- R26: the tick is where the count is read, for the next count alone. -/
theorem State.tick_endCheck_withCountAndInputs (s : State) (c : Nat) (inputs : Vector Word 8) :
    (s.withCountAndInputs c inputs).tick.endCheck =
      s.tick.endCheck.withCountAndInputs (Params.nextCycle s.params c) inputs :=
  State.endCheck_withCountAndInputs s.tick _ inputs

theorem State.otherCommand_withCountAndInputs (s : State) (v : Word) (c : Nat)
    (inputs : Vector Word 8) :
    (s.withCountAndInputs c inputs).otherCommand v =
      (s.otherCommand v).withCountAndInputs c inputs := by
  simp only [State.otherCommand, State.withCountAndInputs]
  split
  · rfl
  · split <;> rfl

theorem State.screenOp_withCountAndInputs (s : State) (v : Word) (p : Fin 64 × Fin 64) (c : Nat)
    (inputs : Vector Word 8) :
    (s.withCountAndInputs c inputs).screenOp v p =
      (s.screenOp v p).withCountAndInputs c inputs := by
  unfold State.screenOp
  cases screenCommand v with
  | some command => cases command <;> rfl
  | none => exact s.otherCommand_withCountAndInputs v c inputs

theorem State.writeOutput_withCountAndInputs (s : State) (r : Fin 32) (v : Word) (c : Nat)
    (inputs : Vector Word 8) :
    (s.withCountAndInputs c inputs).writeOutput r v =
      (s.writeOutput r v).map (·.withCountAndInputs c inputs) := by
  by_cases hr : r = 6
  · have hsame : (s.withCountAndInputs c inputs).outHistory = s.outHistory := rfl
    rw [hr, writeOutput_display, writeOutput_display, hsame]
    cases lastPosition s.outHistory with
    | none => rfl
    | some p => exact congrArg Except.ok ((s.emit 6 v).screenOp_withCountAndInputs v _ c inputs)
  · rw [writeOutput_plain _ _ hr, writeOutput_plain _ _ hr]; rfl

/-- R51: a load sees the inputs only above the cache slots. -/
theorem loadSelected_withCountAndInputs {s : State} {n : Nat} {inputs : Vector Word 8}
    (h : n < 32 ∨ inputs = s.inputs) (c : Nat) :
    (s.withCountAndInputs c inputs).loadSelected n = s.loadSelected n := by
  rcases h with h | rfl
  · rw [loadSelected_cache _ h, loadSelected_cache _ h]; rfl
  · rfl

theorem executeJumpIf_withCountAndInputs (c : Condition) (arg : Option Nat) (s : State)
    (count : Nat) (inputs : Vector Word 8) :
    executeJumpIf c arg (s.withCountAndInputs count inputs) =
      (executeJumpIf c arg s).map (·.withCountAndInputs count inputs) := by
  cases arg with
  | none => rfl
  | some n =>
    have hsame : c.holds (s.withCountAndInputs count inputs).a
        (s.withCountAndInputs count inputs).b = c.holds s.a s.b := rfl
    rw [executeJumpIf_some, executeJumpIf_some, hsame]
    cases c.holds s.a s.b <;> rfl

theorem executeUnknown_withCountAndInputs (arg : Option Nat) (s : State) (c : Nat)
    (inputs : Vector Word 8) :
    executeUnknown arg (s.withCountAndInputs c inputs) =
      (executeUnknown arg s).map (·.withCountAndInputs c inputs) := by
  have hsame : (s.withCountAndInputs c inputs).params = s.params := rfl
  unfold executeUnknown
  rw [hsame]
  cases s.params.unknownOpPolicy <;> rfl

/-- R26, R81: the execute part of an instruction does not read the counter, nor, but for an input
load, the inputs. -/
theorem executeOf_withCountAndInputs {i : Instr} {s : State} {inputs : Vector Word 8}
    (h : i.isInput = false ∨ inputs = s.inputs) (c : Nat) :
    executeOf i (s.withCountAndInputs c inputs) =
      (executeOf i s).map (·.withCountAndInputs c inputs) := by
  cases i with
  | la arg | lb arg =>
    cases arg with
    | none => rfl
    | some n =>
      have hn : n < 32 ∨ inputs = s.inputs := h.imp_left (by simp [Instr.isInput])
      simp only [executeOf, executeLa_some, executeLb_some, loadSelected_withCountAndInputs hn]
      cases s.loadSelected n <;> rfl
  | sva arg =>
    cases arg with
    | none => rfl
    | some n =>
      simp only [executeOf]
      by_cases hn : n < 32
      · rw [executeSva_cache _ hn, executeSva_cache _ hn]; rfl
      · rw [executeSva_device _ (by omega), executeSva_device _ (by omega)]
        exact s.writeOutput_withCountAndInputs _ s.a c inputs
  | rc arg =>
    simp only [executeOf]
    by_cases ht : targetBank s.b = s.loadedBankIndex
    · rw [executeRc_loaded arg ht]
      exact executeRc_loaded (s := s.withCountAndInputs c inputs) arg ht
    · rw [executeRc_other arg ht]
      exact executeRc_other (s := s.withCountAndInputs c inputs) arg ht
  | je arg | jne arg | jg arg | jl arg | jge arg | jle arg =>
    exact executeJumpIf_withCountAndInputs _ arg s c inputs
  | reserved27 arg | reserved28 arg | reserved29 arg | unknown arg =>
    exact executeUnknown_withCountAndInputs arg s c inputs
  | lal arg | lbl arg | lah arg | lbh arg | sup arg | sdn arg | jmp arg => cases arg <;> rfl
  | stp arg | add arg | sub arg | and arg | or arg | xor arg | mul arg | inb arg | rw arg | rr arg
  | nop arg => rfl

/-- R250: what an instruction does under another count and other inputs, when it does not load an
input: the same but for the counter, whose next value only a completed step reads. -/
theorem exec_withCountAndInputs {i : Instr} {s t : State} {inputs : Vector Word 8}
    (h : i.isInput = false ∨ inputs = s.inputs) (c : Nat) (ht : exec i s = .next t) :
    ∃ c', exec i (s.withCountAndInputs c inputs) = .next (t.withCountAndInputs c' inputs) ∧
      (c = s.clockCycle → c' = t.clockCycle) := by
  have hcommutes := executeOf_withCountAndInputs (s := s.advance) h c
  rw [← State.withCountAndInputs_advance] at hcommutes
  simp only [exec_eq, Host.Outcome.next.injEq] at ht ⊢
  subst ht
  rcases completeStep_cases (executeOf i) s with ⟨u, hu, hc⟩ | ⟨r, hr, hc⟩
  · obtain ⟨-, -, -, hclock, -⟩ := (executeOf_ok hu).unchanged
    rw [hu] at hcommutes
    refine ⟨Params.nextCycle u.params c, ?_, fun hcount => ?_⟩
    · rw [completeStep_ok hcommutes, State.tick_endCheck_withCountAndInputs, hc]
    · simp [hc, hclock, hcount]
  · rw [hr] at hcommutes
    exact ⟨c, by rw [completeStep_error hcommutes, takeFault_withCountAndInputs, hc],
      fun hcount => by simp [hc, hcount]⟩

/-- Settles O26: the inputs are left as they are, and `t` has the inputs of `s`. -/
theorem noInstructionReadsTheCounter : Obligations.NoInstructionReadsTheCounter := by
  intro i s t c h
  obtain ⟨c', hc', -⟩ := exec_withCountAndInputs (inputs := s.inputs) (.inr rfl) c h
  obtain ⟨-, hinputs, -⟩ := exec_keeps_hostState h
  have hsame : t.withCountAndInputs c' s.inputs = { t with clockCycle := c' } := by
    rw [← hinputs]; rfl
  exact ⟨c', hc'.trans (congrArg _ hsame)⟩

/-- Settles O27: the same count gives the same next count. -/
theorem onlyInputLoadsSeeTheInputs : Obligations.OnlyInputLoadsSeeTheInputs := by
  intro i s t inputs hi h
  obtain ⟨c', hc', hsame⟩ := exec_withCountAndInputs (.inl hi) s.clockCycle h
  rw [hsame rfl] at hc'
  exact hc'

/-! ### The history and the last position -/

theorem lastPosition_cons_of_some {h : List (Fin 32 × Word)} {u : Word}
    (hu : lastPosition h = some u) (c : Fin 32 × Word) : lastPosition (c :: h) = some u := by
  simp [lastPosition, hu]

theorem lastPosition_cons_of_none {h : List (Fin 32 × Word)} (hn : lastPosition h = none)
    (c : Fin 32 × Word) : lastPosition (c :: h) = if c.1 = 7 then some c.2 else none := by
  simp [lastPosition, hn]

/-- R35: no last position means no register-7 entry. -/
theorem lastPosition_eq_none_iff (h : List (Fin 32 × Word)) :
    lastPosition h = none ↔ ∀ w, ((7 : Fin 32), w) ∉ h := by
  induction h with
  | nil => simp [lastPosition]
  | cons c h ih =>
    cases hl : lastPosition h with
    | some u =>
      obtain ⟨w, hw⟩ : ∃ w, ((7 : Fin 32), w) ∈ h := by simpa [hl] using ih
      rw [lastPosition_cons_of_some hl]
      exact iff_of_false (by simp) fun hall => hall w (List.mem_cons_of_mem c hw)
    | none =>
      have hnot : ∀ w, ((7 : Fin 32), w) ∉ h := ih.mp hl
      rw [lastPosition_cons_of_none hl]
      obtain ⟨r, v⟩ := c
      simp [hnot, eq_comm]

/-- R35: a later part of the history decides the last position, if it has one. -/
theorem lastPosition_append_of_some {after : List (Fin 32 × Word)} {v : Word}
    (hv : lastPosition after = some v) (before : List (Fin 32 × Word)) :
    lastPosition (before ++ after) = some v := by
  induction before with
  | nil => exact hv
  | cons c before ih => exact lastPosition_cons_of_some ih c

/-- R35: the last position splits the history at its latest register-7 entry. -/
theorem exists_split_of_lastPosition {h : List (Fin 32 × Word)} {v : Word}
    (hv : lastPosition h = some v) :
    ∃ before after, h = before ++ (7, v) :: after ∧ ∀ w, ((7 : Fin 32), w) ∉ after := by
  induction h with
  | nil => cases hv
  | cons c h ih =>
    cases hl : lastPosition h with
    | some u =>
      rw [lastPosition_cons_of_some hl] at hv
      obtain ⟨before, after, rfl, hafter⟩ := ih (hl.trans hv)
      exact ⟨c :: before, after, rfl, hafter⟩
    | none =>
      rw [lastPosition_cons_of_none hl] at hv
      obtain ⟨r, w⟩ := c
      obtain ⟨rfl, rfl⟩ : r = 7 ∧ w = v := by simpa using hv
      exact ⟨[], h, rfl, (lastPosition_eq_none_iff h).mp hl⟩

/-- Settles O39: the split at the latest entry, and its converse by the part after it. -/
theorem lastPositionIsTheLatestEntry : Obligations.LastPositionIsTheLatestEntry := by
  refine fun h v => ⟨⟨exists_split_of_lastPosition, ?_⟩, lastPosition_eq_none_iff h⟩
  rintro ⟨before, after, rfl, hafter⟩
  have hnone : lastPosition after = none := (lastPosition_eq_none_iff after).mpr hafter
  exact lastPosition_append_of_some (by rw [lastPosition_cons_of_none hnone]; rfl) before

/-! ### The grids -/

/-- R144: the literal value of each screen operation. -/
def ScreenCommand.code : ScreenCommand → Word
  | .refresh => 0x0001#16
  | .reset => 0x0002#16
  | .on => 0x0004#16
  | .toggle => 0x0008#16
  | .off => 0x0010#16

/-- R144: a value is a screen operation exactly when it is its literal. -/
theorem screenCommand_eq_some_iff (v : Word) (c : ScreenCommand) :
    screenCommand v = some c ↔ v = c.code := by
  constructor
  · intro h
    unfold screenCommand at h
    split_ifs at h with h1 h2 h3 h4 h5 <;> cases h <;> assumption
  · rintro rfl; cases c <;> rfl

/-- R144: what a screen operation can do to the grids under `ENUM`: nothing, the refresh of the
committed frame, or a change of the pending frame by one of the other four commands. -/
theorem State.screenOp_grids {s : State} (henum : s.params.screenOpMode = .enum) (v : Word)
    (p : Fin 64 × Fin 64) :
    ((s.screenOp v p).screen = s.screen ∧ (s.screenOp v p).screenbuffer = s.screenbuffer) ∨
    (v = 0x0001#16 ∧ (s.screenOp v p).screen = s.screenbuffer ∧
      (s.screenOp v p).screenbuffer = s.screenbuffer) ∨
    (v ∈ [0x0002#16, 0x0004#16, 0x0008#16, 0x0010#16] ∧ (s.screenOp v p).screen = s.screen) := by
  unfold State.screenOp
  cases hc : screenCommand v with
  | none => simp [State.otherCommand, henum]
  | some c =>
    rw [(screenCommand_eq_some_iff v c).mp hc]
    cases c with
    | refresh => exact .inr (.inl ⟨rfl, rfl, rfl⟩)
    | reset | on | toggle | off => exact .inr (.inr ⟨by decide, rfl⟩)

/-- R36: an effect keeps both grids or is the screen operation of a store to register 6. -/
theorem Effect.grids {i : Instr} {s t : State} (h : Effect i s t) :
    (t.screen = s.screen ∧ t.screenbuffer = s.screenbuffer) ∨
      (∃ n, i = .sva (some n) ∧ 32 ≤ n ∧ n % 32 = 6) ∧
        ∃ p, t = (s.emit 6 s.a).screenOp s.a (decodePosition p) := by
  cases h with
  | display n p hi h32 h6 => exact .inr ⟨⟨n, hi, h32, h6⟩, p, rfl⟩
  | nothing | setA | setB | jump | stop | cache | output | window | bank => simp

/-- Settles O40: only the screen operation changes a grid, and under `ENUM` it has three cases. -/
theorem gridsChangeOnlyByTheirCommands : Obligations.GridsChangeOnlyByTheirCommands := by
  intro i s t henum h
  rcases exec_cases h with ⟨r, -, rfl⟩ | ⟨u, hu, rfl⟩
  · simp
  simp only [State.endCheck_screen, State.tick_screen, State.endCheck_screenbuffer,
    State.tick_screenbuffer]
  rcases hu.grids with ⟨hscreen, hbuffer⟩ | ⟨hstore, p, rfl⟩
  · simp [hscreen, hbuffer]
  · have hcases := State.screenOp_grids (s := s.advance.emit 6 s.advance.a) henum s.advance.a
      (decodePosition p)
    simp only [State.emit_screen, State.emit_screenbuffer, State.advance_screen,
      State.advance_screenbuffer] at hcases
    rcases hcases with ⟨hscreen, hbuffer⟩ | ⟨hv, hscreen, hbuffer⟩ | ⟨hv, hscreen⟩
    · exact ⟨absurd hscreen, absurd hbuffer⟩
    · exact ⟨fun _ => ⟨hstore, hv, hscreen⟩, absurd hbuffer⟩
    · exact ⟨absurd hscreen, fun _ => ⟨hstore, hv, hscreen⟩⟩

/-! ### The bank -/

/-- R37: the effective value is read from `ram`, the window and the bank index alone. -/
theorem State.effRam_congr {s t : State} (hram : t.ram = s.ram)
    (hindex : t.loadedBankIndex = s.loadedBankIndex) (hwindow : t.loadedBank = s.loadedBank)
    (k : Fin 64) (j : Fin 16) : t.effRam k j = s.effRam k j := by
  simp [State.effRam, State.readWindow, hram, hindex, hwindow]

/-- R204, R208: the write-back stores in `ram` the value a program finds. -/
theorem State.read_writtenBack_eq_effRam (s : State) (k : Fin 64) (j : Fin 16) :
    s.writtenBack.read (16 * k.val + j.val) = s.effRam k j :=
  s.read_writtenBack k j

/-- R208: a switch of the bank hides and loses no word. -/
theorem State.effRam_switchBank (s : State) (target k : Fin 64) (j : Fin 16) :
    (s.switchBank target).effRam k j = s.effRam k j := by
  rw [← s.read_writtenBack_eq_effRam]
  by_cases hk : k = target
  · subst hk; simp [State.effRam, State.readWindow]
  · simp [State.effRam, hk]

/-- R206: a write to the window changes one word of the loaded bank. -/
theorem State.effRam_writeWindow (s : State) (w : Fin 16) (v : Word) (k : Fin 64) (j : Fin 16) :
    (s.writeWindow w v).effRam k j =
      if k = s.loadedBankIndex ∧ j = w then v else s.effRam k j := by
  by_cases hk : k = s.loadedBankIndex
  · by_cases hj : j = w
    · simp [State.effRam, State.readWindow, hk, hj]
    · have hne : w.val ≠ j.val := fun h => hj (Fin.ext h.symm)
      simp [State.effRam, State.readWindow, hk, hj, Vector.getElem_set_ne, hne]
  · simp [State.effRam, hk]

@[simp] theorem State.effRam_advance (s : State) (k : Fin 64) (j : Fin 16) :
    s.advance.effRam k j = s.effRam k j := rfl

@[simp] theorem State.effRam_tick (s : State) (k : Fin 64) (j : Fin 16) :
    s.tick.effRam k j = s.effRam k j := rfl

@[simp] theorem State.effRam_endCheck (s : State) (k : Fin 64) (j : Fin 16) :
    s.endCheck.effRam k j = s.effRam k j :=
  State.effRam_congr (by simp) (by simp) (by simp) k j

@[simp] theorem effRam_takeFault (r : Raise) (s : State) (k : Fin 64) (j : Fin 16) :
    (takeFault r s).effRam k j = s.effRam k j := rfl

theorem Effect.effRam_of_not_rw {i : Instr} {s t : State} (h : Effect i s t)
    (hrw : ∀ arg, i ≠ .rw arg) (k : Fin 64) (j : Fin 16) : t.effRam k j = s.effRam k j := by
  rcases h.bank_writers with ⟨hram, hindex, hwindow | ⟨arg, hi⟩⟩ | ⟨-, -, rfl⟩
  · exact State.effRam_congr hram hindex hwindow k j
  · exact absurd hi (hrw arg)
  · exact s.effRam_switchBank _ k j

/-- R200: a step of `RW` completes with the write to the window. -/
theorem exec_rw (arg : Option Nat) (s : State) :
    exec (.rw arg) s =
      .next (s.advance.writeWindow (windowIndex s.b) s.a).tick.endCheck := rfl

/-- Settles O52: `RW` writes the window, and every other effect keeps the bank or switches it. -/
theorem effectiveRamChangesOnlyByWindowWrites :
    Obligations.EffectiveRamChangesOnlyByWindowWrites := by
  intro i s t h k j
  constructor
  · rintro ⟨arg, rfl⟩
    cases (exec_rw arg s).symm.trans h
    rw [State.effRam_endCheck, State.effRam_tick]
    exact State.effRam_writeWindow s.advance _ s.a k j
  · intro hrw
    rcases exec_cases h with ⟨r, -, rfl⟩ | ⟨u, hu, rfl⟩
    · simp
    · simpa using hu.effRam_of_not_rw hrw k j

/-- Settles O54: a fault keeps the bank, and the effects that do not are `RC` and `RW`. -/
theorem bankStateHasItsWriters : Obligations.BankStateHasItsWriters := by
  intro i s t h
  rcases exec_cases h with ⟨r, -, rfl⟩ | ⟨u, hu, rfl⟩
  · simp
  rcases hu.bank_writers with ⟨hram, hindex, hwindow | ⟨arg, hi⟩⟩ | ⟨arg, hi, -⟩
  · simp [hram, hindex, hwindow]
  · simpa [hram, hindex] using fun _ => ⟨arg, .inr hi⟩
  · exact ⟨fun _ => ⟨arg, hi⟩, fun _ => ⟨arg, .inl hi⟩⟩

/-! ### The reset and the fault codes -/

theorem blankGrid_pixel (x y : Fin 64) : blankGrid[x][y] = false := by simp [blankGrid]

/-- R38: a program of words changes the reset in the program and the run flag. -/
theorem hostResetWords_eq (p : Params) (words : List (BitVec 32)) :
    hostResetWords p words =
      { hostReset p "" with program := words.map .word, running := decide (words ≠ []) } := by
  simp [hostResetWords, hostReset, State.initial, List.length_pos_iff]

/-- Settles O58: the fields of the initial state, with the memories read word by word. -/
theorem resetValues : Obligations.ResetValues := by
  intro p text
  refine ⟨rfl, rfl, rfl, rfl, rfl, ?cache, fun _ => rfl, rfl, ?window, ?inputs, ?running, rfl,
    fun x y => ⟨blankGrid_pixel x y, blankGrid_pixel x y⟩, rfl, rfl, rfl, rfl, hostResetWords_eq p⟩
  case cache => intro i; simp [hostReset, State.initial]
  case window => intro j; simp [hostReset, State.initial, ramDefault]
  case inputs => intro i; simp [hostReset, State.initial]
  case running => simp [hostReset, State.initial, programOfText, List.length_pos_iff]

/-- Settles O59: each code, kind and reason is an entry of the model's tables. -/
theorem faultCodes : Obligations.FaultCodes :=
  ⟨rfl, rfl, rfl, rfl, rfl, rfl, rfl, rfl, rfl, rfl, rfl, rfl, rfl, rfl, rfl, rfl, rfl, rfl⟩

end Sys2Proof.Machine
end

section
/-! The fields of `b` that name a word of the window and a bank (20_memory.md R52). -/

namespace Sys2Proof.Machine

/-- R52, as the spec writes it: the bank is computed from the signed value of `b`. -/
theorem targetBank_val_eq_sval (b : Word) : ((targetBank b).val : Int) = sval b / 16 % 64 :=
  Int.toNat_of_nonneg (Int.emod_nonneg _ (by decide))

/-- R10: the signed and the unsigned value of a word agree modulo 2^16. -/
theorem sval_emod_eq_uval (w : Word) : sval w % 2 ^ 16 = uval w := by
  rw [sval, BitVec.toInt_eq_toNat_bmod]
  exact Int.bmod_emod.trans (Int.emod_eq_of_lt (Int.natCast_nonneg _) (mod_cast w.isLt))

/-- R52, D6: the sign bit of `b` has a weight that a division by 16 and a modulus of 64 drop, so the
unsigned value of `b` names the same bank. -/
theorem targetBank_val_eq_uval (b : Word) : (targetBank b).val = uval b / 16 % 64 := by
  have hbank := targetBank_val_eq_sval b
  have hvalue := sval_emod_eq_uval b
  omega

/-- R52: the window index is `b[3:0]`. -/
theorem windowIndex_val_eq_extractLsb' (b : Word) :
    (windowIndex b).val = (b.extractLsb' 0 4).toNat := by
  simp [windowIndex, BitVec.extractLsb'_toNat]

/-- R52: the target bank is `b[9:4]`. -/
theorem targetBank_val_eq_extractLsb' (b : Word) :
    (targetBank b).val = (b.extractLsb' 4 6).toNat := by
  simp [targetBank_val_eq_uval, BitVec.extractLsb'_toNat, Nat.shiftRight_eq_div_pow]

/-- Settles O51: each index is its bit field of `b`. -/
theorem bankFieldsOfB : Obligations.BankFieldsOfB := fun b =>
  ⟨windowIndex_val_eq_extractLsb' b, targetBank_val_eq_extractLsb' b⟩

end Sys2Proof.Machine
end

section
/-! The W32 word and the text level, settled (30_encoding.md): a word holds its instruction, the
transcriber keeps or refuses a program, and a line, its record and its name read back. -/

namespace Sys2Proof

/-! ### The W32 word -/

/-- R71, R76: a word decodes to the opcode number and the argument it was made of. -/
theorem decodeWord_packWord (op : BitVec 5) {arg : Option Nat} (h : argFits arg) :
    decodeWord (packWord op arg) = instrOfOpcode op arg := by
  rw [decodeWord, opField_packWord, wordArg_packWord op h]

/-- R71: an instruction made of an opcode number and an argument has the word of these two. -/
theorem encode_instrOfOpcode (op : BitVec 5) (arg : Option Nat) :
    encode (instrOfOpcode op arg) = packWord op arg := by
  rw [encode, opcode_instrOfOpcode, arg_instrOfOpcode]

/-- Settles O1: the fields of the word are the opcode number and the argument, which name `i`. -/
theorem decodeOfEncodeIsTheInstruction : Obligations.DecodeOfEncodeIsTheInstruction := by
  intro i hi
  calc decodeWord (encode i) = instrOfOpcode i.opcode i.arg := decodeWord_packWord i.opcode hi
    _ = i := instrOfOpcode_opcode i

/-- Settles O2: the word of the decoded instruction is packed from the fields of `w`. -/
theorem encodeOfDecodeIsTheWord : Obligations.EncodeOfDecodeIsTheWord := by
  intro w hw
  calc encode (decodeWord w) = packWord (opField w) (wordArg w) := encode_instrOfOpcode _ _
    _ = w := packWord_fields w hw

/-- Settles O8: the decoder evaluated at each word. -/
theorem wordsOfTheSpecDecode : Obligations.WordsOfTheSpecDecode := by
  unfold Obligations.WordsOfTheSpecDecode; decide

/-! ### The transcriber -/

/-- R82: the word of a text line whose argument fits. -/
def lineWord (l : TextInstruction) : BitVec 32 := packWord (textOpcode l.name) l.arg

/-- R82: the argument of this line does not fit in 26 bits. -/
def TextInstruction.tooLarge (l : TextInstruction) : Bool := ¬ argFits l.arg

/-- R82: the number of the first line whose argument does not fit. -/
def firstTooLarge (lines : List TextInstruction) : Option Nat :=
  lines.findIdx? TextInstruction.tooLarge

theorem tooLarge_eq_true_iff (l : TextInstruction) : l.tooLarge = true ↔ ¬ argFits l.arg :=
  decide_eq_true_iff

theorem tooLarge_eq_false_iff (l : TextInstruction) : l.tooLarge = false ↔ argFits l.arg :=
  decide_eq_false_iff_not.trans not_not

theorem transcribeLine_of_fits {l : TextInstruction} (h : argFits l.arg) :
    transcribeLine l = some (lineWord l) := if_pos h

theorem transcribeLine_of_not_fits {l : TextInstruction} (h : ¬ argFits l.arg) :
    transcribeLine l = none := if_neg h

theorem decodeWord_lineWord {l : TextInstruction} (h : argFits l.arg) :
    decodeWord (lineWord l) = decodeText l := decodeWord_packWord _ h

theorem firstTooLarge_cons_of_fits {l : TextInstruction} (h : argFits l.arg)
    (ls : List TextInstruction) : firstTooLarge (l :: ls) = (firstTooLarge ls).map (· + 1) := by
  simp [firstTooLarge, List.findIdx?_cons, (tooLarge_eq_false_iff l).mpr h]

theorem firstTooLarge_cons_of_not_fits {l : TextInstruction} (h : ¬ argFits l.arg)
    (ls : List TextInstruction) : firstTooLarge (l :: ls) = some 0 := by
  simp [firstTooLarge, List.findIdx?_cons, (tooLarge_eq_true_iff l).mpr h]

theorem firstTooLarge_eq_none_iff (lines : List TextInstruction) :
    firstTooLarge lines = none ↔ ∀ l ∈ lines, argFits l.arg := by
  simp only [firstTooLarge, List.findIdx?_eq_none_iff, tooLarge_eq_false_iff]

theorem firstTooLarge_eq_some_iff (lines : List TextInstruction) (k : Nat) :
    firstTooLarge lines = some k ↔ ∃ h : k < lines.length, ¬ argFits lines[k].arg ∧
      ∀ j (hj : j < k), argFits (lines[j]'(by omega)).arg := by
  simp only [firstTooLarge, List.findIdx?_eq_some_iff_getElem, tooLarge_eq_true_iff, not_not]

/-- R82, log 23: the transcription from line `k` on names the first line that does not fit, and is the
word of each line when there is none. -/
theorem transcribeFrom_eq (k : Nat) (lines : List TextInstruction) :
    transcribeFrom k lines = (firstTooLarge lines).elim (.ok (lines.map lineWord))
      fun j => .error (.argumentTooLarge (k + j)) := by
  induction lines generalizing k with
  | nil => rfl
  | cons l ls ih =>
    unfold transcribeFrom
    by_cases hl : argFits l.arg
    · rw [transcribeLine_of_fits hl, firstTooLarge_cons_of_fits hl, ih (k + 1)]
      cases firstTooLarge ls with
      | none => rfl
      | some j => simp [Nat.add_assoc, Nat.add_comm 1 j]
    · rw [transcribeLine_of_not_fits hl, firstTooLarge_cons_of_not_fits hl]
      rfl

theorem transcribe_of_length_le {p : Params} {lines : List TextInstruction}
    (h : lines.length ≤ p.maxProgramLen) : transcribe p lines = transcribeFrom 0 lines := if_pos h

theorem transcribe_of_length_gt {p : Params} {lines : List TextInstruction}
    (h : p.maxProgramLen < lines.length) : transcribe p lines = .error .programTooLong :=
  if_neg (Nat.not_le.mpr h)

/-- R82: the only transcription of a program is the word of each line, and it exists exactly for the
programs that fit. -/
theorem transcribe_eq_ok_iff (p : Params) (lines : List TextInstruction) (ws : List (BitVec 32)) :
    transcribe p lines = .ok ws ↔ programFits p lines ∧ ws = lines.map lineWord := by
  rw [programFits, ← firstTooLarge_eq_none_iff]
  by_cases hlen : lines.length ≤ p.maxProgramLen
  · rw [transcribe_of_length_le hlen, transcribeFrom_eq]
    cases firstTooLarge lines <;> simp [hlen, eq_comm]
  · simp [transcribe_of_length_gt (Nat.lt_of_not_le hlen), hlen]

/-- Settles O3: the words are those of the lines, and the argument of each line fits. -/
theorem transcriptionKeepsEveryInstruction : Obligations.TranscriptionKeepsEveryInstruction := by
  intro p lines
  refine ⟨fun ws hws => ?_, fun hfits => ⟨_, (transcribe_eq_ok_iff p lines _).mpr ⟨hfits, rfl⟩⟩⟩
  obtain ⟨⟨-, hfits⟩, rfl⟩ := (transcribe_eq_ok_iff p lines ws).mp hws
  rw [List.map_map]
  exact List.map_congr_left fun l hl => decodeWord_lineWord (hfits l hl)

/-- Settles O4: a program of allowed length is refused at its first line that does not fit. -/
theorem transcriberRefusesByName : Obligations.TranscriberRefusesByName := by
  intro p lines
  simp only [← firstTooLarge_eq_some_iff]
  by_cases hlen : lines.length ≤ p.maxProgramLen
  · rw [transcribe_of_length_le hlen, transcribeFrom_eq]
    cases firstTooLarge lines <;> simp [hlen]
  · simp [transcribe_of_length_gt (Nat.lt_of_not_le hlen), hlen, Nat.lt_of_not_le hlen]

/-! ### Lines and records -/

/-- Settles O6: each clause is a case of the record of a token list. -/
theorem tokensDecideTheRecord : Obligations.TokensDecideTheRecord := by
  intro line name t rest
  refine ⟨fun h => ?_, fun h => ?_, fun h => ?_⟩ <;> rw [parseLine, h] <;> rfl

/-- R73: what tokens give is a well-formed record, because no token is empty or holds white space. -/
theorem instructionOfTokens_wf {ts : List (List Char)}
    (h : ∀ t ∈ ts, t ≠ [] ∧ ∀ c ∈ t, isSpaceChar c = false) : (instructionOfTokens ts).wf := by
  match ts with
  | [] => exact ⟨by simp [instructionOfTokens, TextInstruction.sentinel], fun _ => rfl⟩
  | [name] =>
    obtain ⟨-, hspace⟩ := h name (by simp)
    exact ⟨by simpa [instructionOfTokens] using hspace, fun _ => rfl⟩
  | name :: t :: rest =>
    obtain ⟨hne, hspace⟩ := h name (by simp)
    exact ⟨by simpa [instructionOfTokens] using hspace,
      fun hempty => absurd (String.ofList_eq_empty_iff.mp hempty) hne⟩

/-- R75: the digits of a number are one token. -/
theorem tokens_decimalDigits (n : Nat) : tokens (decimalDigits n) = [decimalDigits n] :=
  tokens_word (digitsAux_ne_nil n n) fun c hc => isSpaceChar_digit (digitsAux_digits _ n c hc)

/-- R75: the tokens of a formatted record with a name are the name and the argument's digits. -/
theorem tokens_formatInstruction {i : TextInstruction} (hne : i.name.toList ≠ [])
    (hspace : ∀ c ∈ i.name.toList, isSpaceChar c = false) :
    tokens (formatInstruction i).toList = i.name.toList :: (i.arg.map decimalDigits).toList := by
  unfold formatInstruction
  cases i.arg with
  | none => exact tokens_word hne hspace
  | some n =>
    simp only [String.toList_ofList]
    rw [tokens_word_space hne hspace (by simp [tokens_decimalDigits]), tokens_decimalDigits]
    rfl

/-- R75: a record with a name is read back from its tokens. -/
theorem instructionOfTokens_name_digits (name : String) (arg : Option Nat) :
    instructionOfTokens (name.toList :: (arg.map decimalDigits).toList) = ⟨name, arg⟩ := by
  cases arg <;> simp [instructionOfTokens, tokenArg_decimalDigits]

/-- Settles O5: the tokens of a line make a well-formed record, and a formatted record has its own
tokens back; the empty record is the empty line. -/
theorem parseOfFormatIsTheRecord : Obligations.ParseOfFormatIsTheRecord := by
  refine ⟨fun line => instructionOfTokens_wf (tokens_spec _), ?_⟩
  rintro ⟨name, arg⟩ ⟨hspace, hempty⟩
  by_cases hname : name = ""
  · obtain rfl : arg = none := hempty hname
    subst hname
    rfl
  · rw [parseLine, tokens_formatInstruction (mt String.toList_eq_nil_iff.mp hname) hspace]
    exact instructionOfTokens_name_digits name arg

/-- R78: a line that a newline ends is the first line. -/
theorem splitLines_line_newline {l : List Char} (h : '\n' ∉ l) (rest : List Char) :
    splitLines (l ++ '\n' :: rest) = l :: splitLines rest := by
  induction l with
  | nil => simp [splitLines]
  | cons c l ih =>
    obtain ⟨hc, hl⟩ := not_or.mp (mt List.mem_cons.mpr h)
    rw [List.cons_append, splitLines, if_neg (Ne.symm hc), ih hl]

/-- R78: a text without a newline is one line. -/
theorem splitLines_last_line {l : List Char} (h : '\n' ∉ l) (hne : l ≠ []) :
    splitLines l = [l] := by
  induction l with
  | nil => exact absurd rfl hne
  | cons c l ih =>
    obtain ⟨hc, hl⟩ := not_or.mp (mt List.mem_cons.mpr h)
    rw [splitLines, if_neg (Ne.symm hc)]
    cases l with
    | nil => rfl
    | cons d ds => rw [ih hl (List.cons_ne_nil d ds)]

/-- R78: lines that each end in a newline come before the lines of the rest of the text. -/
theorem splitLines_lines_append {lines : List (List Char)} (h : ∀ l ∈ lines, '\n' ∉ l)
    (rest : List Char) :
    splitLines ((lines.flatMap fun l => l ++ ['\n']) ++ rest) = lines ++ splitLines rest := by
  induction lines with
  | nil => rfl
  | cons l ls ih =>
    obtain ⟨hl, hls⟩ := List.forall_mem_cons.mp h
    calc splitLines (((l :: ls).flatMap fun l => l ++ ['\n']) ++ rest)
        = splitLines (l ++ '\n' :: ((ls.flatMap fun l => l ++ ['\n']) ++ rest)) := by simp
      _ = l :: splitLines ((ls.flatMap fun l => l ++ ['\n']) ++ rest) :=
          splitLines_line_newline hl _
      _ = l :: ls ++ splitLines rest := by rw [ih hls]; rfl

/-- Settles O7: the rest of the text is empty, or it is the last line. -/
theorem linesOfTextAreReadBack : Obligations.LinesOfTextAreReadBack := by
  intro lines last hlines hlast hne
  constructor
  · simpa [splitLines] using splitLines_lines_append hlines []
  · rw [splitLines_lines_append hlines, splitLines_last_line hlast hne]

/-! ### Names -/

/-- A list of pairs whose keys differ finds exactly its members. -/
theorem lookup_eq_some_iff_mem {α β : Type} [BEq α] [LawfulBEq α] {l : List (α × β)}
    (h : (l.map Prod.fst).Nodup) (k : α) (v : β) : l.lookup k = some v ↔ (k, v) ∈ l := by
  induction l with
  | nil => simp
  | cons c l ih =>
    obtain ⟨k', v'⟩ := c
    obtain ⟨hnew, hl⟩ := List.nodup_cons.mp h
    by_cases hk : k = k'
    · subst hk
      have hnot : (k, v) ∉ l := fun hmem => hnew (List.mem_map.mpr ⟨(k, v), hmem, rfl⟩)
      simp [hnot, eq_comm]
    · have hbeq : (k == k') = false := by simpa using hk
      simp [List.lookup_cons, hbeq, hk, ih hl]

theorem mnemonicTable_names_nodup : (mnemonicTable.map Prod.fst).Nodup := by decide

/-- R76: a name has an opcode other than that of `UNKNOWN` exactly when the table says so. -/
theorem textOpcode_eq_iff {op : BitVec 5} (hop : op ≠ 30#5) (name : String) :
    textOpcode name = op ↔ (name, op) ∈ mnemonicTable := by
  rw [← lookup_eq_some_iff_mem mnemonicTable_names_nodup, textOpcode]
  cases mnemonicTable.lookup name <;> simp [hop.symm]

/-- R84: a name that the table does not hold is `UNKNOWN`. -/
theorem textOpcode_of_not_mem {name : String} (h : name ∉ mnemonicTable.map Prod.fst) :
    textOpcode name = 30#5 := by
  have hnone : mnemonicTable.lookup name = none := by
    rw [List.lookup_eq_none_iff]
    intro entry hentry
    simpa using fun heq : name = entry.1 => h (heq ▸ List.mem_map_of_mem hentry)
  rw [textOpcode, hnone]; rfl

/-- R76: an opcode number and an argument name one instruction only. -/
theorem instrOfOpcode_eq_iff (op : BitVec 5) (i : Instr) :
    instrOfOpcode op i.arg = i ↔ op = i.opcode := by
  constructor
  · intro h
    rw [← h, opcode_instrOfOpcode]
  · rintro rfl
    exact instrOfOpcode_opcode i

/-- R76, R77: a record decodes to an instruction of one of the mnemonics exactly when the table pairs
its name with the opcode number. -/
theorem decodeText_eq_iff {i : Instr} (h : i.opcode.toNat < 27) (name : String) :
    decodeText ⟨name, i.arg⟩ = i ↔ (name, i.opcode) ∈ mnemonicTable := by
  have hop : i.opcode ≠ 30#5 := by rintro hop; simp [hop] at h
  exact (instrOfOpcode_eq_iff _ i).trans (textOpcode_eq_iff hop name)

/-- Settles O9: the literal names are looked up, and the rest is the table's membership. -/
theorem namesDecodeExactly : Obligations.NamesDecodeExactly := by
  intro name arg
  refine ⟨rfl, rfl, rfl, rfl, rfl, rfl, rfl, rfl, rfl, rfl, rfl, rfl, rfl, rfl, rfl, rfl, rfl, rfl,
    rfl, rfl, rfl, rfl, rfl, rfl, rfl, rfl, rfl, ?exactly, rfl, rfl, ?unknown⟩
  case exactly => rintro i rfl h; exact decodeText_eq_iff h name
  case unknown => intro h; rw [decodeText, textOpcode_of_not_mem h]; rfl

/-! ### The look-ahead -/

/-- Settles O10: `n / 32` decides for the two loads; every other instruction is no input. -/
theorem isInputExactlyForDeviceLoads : Obligations.IsInputExactlyForDeviceLoads := by
  intro i
  cases i with
  | la arg | lb arg => cases arg <;> simp [Instr.isInput]
  | _ => simp [Instr.isInput]

end Sys2Proof
end

section
/-! The two argument classes of the opcode map, settled (30_encoding.md R85, R86). -/

namespace Sys2Proof.Machine

/-- R86: the execute part of an instruction of class REQ looks at its argument first. -/
theorem executeOf_missingArg {i : Instr} (hclass : argClass i = .required) (harg : i.arg = none)
    (s : State) : executeOf i s = .error .missingArg := by
  cases i with
  | la arg | lb arg | lal arg | lbl arg | lah arg | lbh arg | sva arg | sup arg | sdn arg
  | jmp arg | je arg | jne arg | jg arg | jl arg | jge arg | jle arg =>
    obtain rfl : arg = none := harg
    rfl
  | _ => cases hclass

/-- R85: the execute part of an instruction of class IGN is the same with every argument. -/
theorem executeOf_ignoredArg {i : Instr} (hclass : argClass i = .ignored) (arg : Option Nat) :
    executeOf (instrOfOpcode i.opcode arg) = executeOf i := by
  cases i with
  | stp | add | sub | and | or | xor | mul | inb | rw | rr | rc | reserved27 | reserved28
  | reserved29 | unknown | nop => rfl
  | _ => cases hclass

/-- Settles O28: the execute part raises `MISSING_ARG`, and a fault commits nothing. -/
theorem requiredArgumentMissingFaults : Obligations.RequiredArgumentMissingFaults := by
  intro i s hclass harg
  rw [exec_eq, completeStep_error (executeOf_missingArg hclass harg s.advance)]
  exact congrArg _ (takeFault_eq_faulted .missingArg s)

/-- Settles O29: the step depends on the execute part only. -/
theorem ignoredArgumentHasNoEffect : Obligations.IgnoredArgumentHasNoEffect := by
  intro op arg s hclass
  have hsame := executeOf_ignoredArg hclass arg
  rw [opcode_instrOfOpcode] at hsame
  exact ⟨arg_instrOfOpcode op arg, by rw [exec_eq, exec_eq, hsame]⟩

end Sys2Proof.Machine
end

section
/-! The statements on the step cycle (40_step_cycle.md): the fetch, what a step returns, what every
instruction does to the pointer, the run flag and the words it names, and the instructions that do
nothing more than the common step actions. -/

namespace Sys2Proof.Machine

/-! ### The fetch -/

/-- R101: a running machine that fetches an entry executes its decoded instruction. -/
theorem step_of_fetch_some {s : State} {entry : ProgramEntry} (hr : s.running = true)
    (hf : s.fetch = some entry) : step s = exec (decodeEntry entry) s := by
  simp [step, hr, hf]

/-- R107: a running machine that fetches nothing takes the fetch fault. -/
theorem step_of_fetch_none {s : State} (hr : s.running = true) (hf : s.fetch = none) :
    step s = .next (takeFault .fetchRange s) := by
  simp [step, hr, hf]

theorem fetch_eq_none_of_length_le {s : State} (h : s.program.length ≤ s.ip) : s.fetch = none :=
  List.getElem?_eq_none h

/-- Log 3: what is placed at an index is found there, whether or not the program reached it. -/
theorem placeEntry_getElem?_self (entry : ProgramEntry) (k : Nat) (program : List ProgramEntry) :
    (placeEntry entry k program)[k]? = some entry := by
  induction k generalizing program with
  | zero => cases program <;> rfl
  | succ k ih => cases program <;> exact ih _

/-- R71: a W32 word is given by all of its 32 bits. -/
theorem tableWord_32_toNat (w : BitVec 32) : tableWord 32 w.toNat = w := by
  rw [tableWord, Nat.mod_eq_of_lt w.isLt, BitVec.ofNat_toNat, BitVec.setWidth_eq]

/-- Settles O11: the hypothesis on the program is a fetch that finds the entry. -/
theorem stepRunsTheDecodedInstruction : Obligations.StepRunsTheDecodedInstruction :=
  fun _ _ hr hf => step_of_fetch_some hr hf

/-- Settles O12: the placed word is the one fetched, and it decodes with all of its bits. -/
theorem fetchWordRunsNext : Obligations.FetchWordRunsNext := by
  intro s w
  have hplaced : s.withFetchWord 32 w.toNat =
      { s with program := placeEntry (.word w) s.ip s.program, running := true } := by
    rw [State.withFetchWord, tableWord_32_toNat]
  refine ⟨_, hplaced, ?_⟩
  rw [hplaced]
  exact step_of_fetch_some (entry := .word w) rfl (placeEntry_getElem?_self _ s.ip s.program)

/-- Settles O13: past the end there is no entry to fetch. -/
theorem fetchBeyondProgramFaults : Obligations.FetchBeyondProgramFaults :=
  fun _ hr hlen => step_of_fetch_none hr (fetch_eq_none_of_length_le hlen)

/-- Settles O14: a running machine takes the fetch fault or executes an instruction, and either has a
next state. -/
theorem haltedExactlyWhenNoStep : Obligations.HaltedExactlyWhenNoStep := by
  intro s
  refine ⟨step_halted, fun hr => ?_⟩
  cases hf : s.fetch with
  | none => exact ⟨_, step_of_fetch_none hr hf⟩
  | some entry => exact ⟨_, (step_of_fetch_some hr hf).trans (exec_eq _ s)⟩

/-! ### What a step returns -/

theorem step_keeps_program {s t : State} (h : step s = .next t) : t.program = s.program := by
  rcases step_fetchFault_or_exec h with rfl | ⟨i, hi⟩
  · rfl
  · exact (exec_keeps_hostState hi).1

theorem stepReturns_of_next {s t : State} (h : step s = .next t) :
    stepReturns s = some (returnedEntry t) := by
  simp [stepReturns, h]

theorem returnedEntry_of_fault {t : State} (h : t.faultKind ≠ .none) :
    returnedEntry t = .sentinel := if_neg h

theorem returnedEntry_of_no_fault {t : State} (h : t.faultKind = .none) :
    returnedEntry t = t.program[t.ip]?.getD .sentinel := if_pos h

/-- Settles O15: the returned entry is the fetch of the state after the step, whose program is the one
before it. -/
theorem stepReturnsTheNextInstruction : Obligations.StepReturnsTheNextInstruction := by
  intro s t _ h
  rw [stepReturns_of_next h, ← step_keeps_program h]
  refine ⟨fun hk hlt => ?inside, fun hk hle => ?pastTheEnd, fun hk => ?fault⟩
  case inside => rw [returnedEntry_of_no_fault hk, List.getElem?_eq_getElem hlt, Option.getD_some]
  case pastTheEnd => rw [returnedEntry_of_no_fault hk, List.getElem?_eq_none hle]; rfl
  case fault => rw [returnedEntry_of_fault hk]; rfl

/-! ### Completion or one precise fault -/

/-- R241: the kinds and reasons of the faults an instruction can raise; a fetch fault is none. -/
theorem Raises.kind_reason_mem {i : Instr} {s : State} {r : Raise} (h : Raises i s r) :
    (r.kind, r.reason) ∈ [(FaultKind.indexFault, FaultReason.missingArg), (.indexFault, .inputRange),
      (.displayProtocolFault, .none), (.illegalInstruction, .none)] := by
  cases h <;> decide

/-- R101: an effect leaves the pointer where the step put it, or is a jump to its argument. -/
theorem Effect.ip_eq_or_jump {i : Instr} {s t : State} (h : Effect i s t) :
    t.ip = s.ip ∨ (20 ≤ i.opcode.toNat ∧ i.opcode.toNat ≤ 26 ∧ i.arg = some t.ip) := by
  cases h with
  | jump n h20 h26 ha => exact .inr ⟨h20, h26, ha⟩
  | nothing | setA | setB | stop | cache | output | display | window | bank => simp

/-- R160: exactly `STP` clears the run flag. -/
theorem Effect.running_iff {i : Instr} {s t : State} (h : Effect i s t) :
    t.running = true ↔ s.running = true ∧ i.opcode ≠ 7#5 := by
  cases h with
  | stop h7 => simp [h7]
  | nothing h7 | setA v h7 | setB v h7 => simp [h7]
  | jump n h20 =>
    have h7 : i.opcode ≠ 7#5 := fun h => by simp [h] at h20
    simp [h7]
  | cache n h hi | output n r hi | display n p hi | window arg hi | bank arg hi =>
    simp [hi, Instr.opcode]

/-- Settles O16: the fault is one of the table, and a completed effect ends in the common step
actions. -/
theorem everyInstructionCompletesOrFaultsPrecisely :
    Obligations.EveryInstructionCompletesOrFaultsPrecisely := by
  intro i s
  refine ⟨_, exec_eq i s, ?_⟩
  rcases exec_cases (exec_eq i s) with ⟨r, hr, ht⟩ | ⟨u, hu, ht⟩ <;> rw [ht]
  · exact .inl ⟨_, hr.kind_reason_mem, takeFault_eq_faulted r s⟩
  · obtain ⟨hprogram, hparams, -, hclock, hkind, hreason, hfip⟩ := hu.unchanged
    refine .inr ⟨?counter, ?pointer, ?kind, ?reason, ?faultIp, ?running⟩
    case counter => simp [hparams, hclock]
    case pointer => simpa using hu.ip_eq_or_jump
    case kind => simp [hkind]
    case reason => simp [hreason]
    case faultIp => simp [hfip]
    case running => simp [hu.running_iff, hprogram, and_assoc]

/-! ### What one instruction writes -/

theorem Effect.a_or_b_unchanged {i : Instr} {s t : State} (h : Effect i s t) :
    t.a = s.a ∨ t.b = s.b := by
  cases h with
  | setA => exact .inr rfl
  | nothing | setB | jump | stop | cache | output | display | window | bank => simp

/-- R31: only the slot that an `SVA` names changes. -/
theorem Effect.cacheSlots_unchanged {i : Instr} {s t : State} (h : Effect i s t) (j : Fin 32)
    (hj : ∀ n, i = .sva (some n) → n < 32 → j ≠ Fin.ofNat 32 n) :
    t.cacheSlots[j] = s.cacheSlots[j] := by
  cases h with
  | cache n h hi =>
    have hne : n ≠ j.val := fun hn => hj n hi h (Fin.ext (by simp [hn]))
    simp [Vector.getElem_set_ne, hne]
  | nothing | setA | setB | jump | stop | output | display | window | bank => simp

/-- R28: only the window word that an `RW` names by `b` changes, or an `RC` changes the bank. -/
theorem Effect.bank_unchanged_of_not_rc {i : Instr} {s t : State} (h : Effect i s t)
    (hrc : ∀ arg, i ≠ .rc arg) :
    t.loadedBankIndex = s.loadedBankIndex ∧ t.ram = s.ram ∧
      ∀ j : Fin 16, (∀ arg, i = .rw arg → j ≠ windowIndex s.b) →
        t.loadedBank[j] = s.loadedBank[j] := by
  cases h with
  | bank arg hi => exact absurd hi (hrc arg)
  | window arg hi =>
    refine ⟨rfl, rfl, fun j hj => ?_⟩
    have hne : (windowIndex s.b).val ≠ j.val := fun h => hj arg hi (Fin.ext h.symm)
    simp [Vector.getElem_set_ne, hne]
  | nothing | setA | setB | jump | stop | cache | output | display => simp

/-- R204, R205: `RC` does nothing, or it switches to a bank that is not loaded. -/
theorem Effect.of_rc {arg : Option Nat} {s t : State} (h : Effect (.rc arg) s t) :
    t = s ∨ (targetBank s.b ≠ s.loadedBankIndex ∧ t = s.switchBank (targetBank s.b)) := by
  cases h with
  | nothing => exact .inl rfl
  | bank _ _ hother => exact .inr ⟨hother, rfl⟩
  | setA _ _ _ hrc | setB _ _ _ hrc => exact absurd rfl (hrc arg)
  | jump _ h20 => exact absurd h20 (by simp [Instr.opcode])
  | stop h7 => exact absurd h7 (by simp [Instr.opcode])
  | cache _ _ hi | output _ _ hi | display _ _ hi | window _ hi => cases hi

theorem Effect.rc_writes {arg : Option Nat} {s t : State} (h : Effect (.rc arg) s t) :
    t.a = s.a ∧ t.b = s.b ∧
      (t.loadedBankIndex = s.loadedBankIndex → t.ram = s.ram ∧ t.loadedBank = s.loadedBank) := by
  rcases h.of_rc with rfl | ⟨hother, rfl⟩
  · simp
  · exact ⟨rfl, rfl, fun hsame => absurd hsame hother⟩

/-- R34: the history grows by the entry that an `SVA` to an output register names, or not at all. -/
theorem Effect.outHistory_eq_or_sva {i : Instr} {s t : State} (h : Effect i s t) :
    t.outHistory = s.outHistory ∨ ∃ n, i = .sva (some n) ∧ 32 ≤ n ∧
      t.outHistory = s.outHistory ++ [(Fin.ofNat 32 n, s.a)] := by
  cases h with
  | output n r hi h32 hr =>
    obtain rfl : r = Fin.ofNat 32 n := Fin.ext hr
    exact .inr ⟨n, hi, h32, rfl⟩
  | display n p hi h32 h6 =>
    have hreg : (6 : Fin 32) = Fin.ofNat 32 n := Fin.ext h6.symm
    exact .inr ⟨n, hi, h32, by simp [hreg]⟩
  | nothing | setA | setB | jump | stop | cache | window | bank => simp

/-- Settles O18: a fault writes none of these fields, and each effect at most the words it names. -/
theorem oneInstructionWritesLittle : Obligations.OneInstructionWritesLittle := by
  intro i s t h
  rcases exec_cases h with ⟨r, -, rfl⟩ | ⟨u, hu, rfl⟩
  · simp
  refine ⟨?accumulators, fun j hj => ?cache, fun hrc => ?window, ?bank, ?history, ?running⟩
  case accumulators => simpa using hu.a_or_b_unchanged
  case cache => simpa using hu.cacheSlots_unchanged j hj
  case window => simpa using hu.bank_unchanged_of_not_rc hrc
  case bank => rintro arg rfl; simpa using hu.rc_writes
  case history => simpa using hu.outHistory_eq_or_sva
  case running => simpa using fun hr _ => hu.running_of_running hr

/-! ### The instructions that do nothing more -/

/-- R106: an instruction whose execute part does nothing does the common step actions only. -/
theorem exec_of_ok_advance {i : Instr} {s : State} (h : executeOf i s.advance = .ok s.advance) :
    exec i s = .next (finished s (s.ip + 1) s) := exec_of_ok h

theorem executeUnknown_of_nop {s : State} (arg : Option Nat)
    (h : s.params.unknownOpPolicy = .nop) : executeUnknown arg s = .ok s := by
  simp [executeUnknown, h]

theorem executeUnknown_of_fault {s : State} (arg : Option Nat)
    (h : s.params.unknownOpPolicy = .fault) :
    executeUnknown arg s = .error .illegalInstruction := by
  simp [executeUnknown, h]

/-- R84: the instructions that are not recognised share the execute part of `UNKNOWN`. -/
theorem exec_of_executeOf_eq_unknown {i : Instr} {arg : Option Nat}
    (h : executeOf i = executeUnknown arg) (s : State) :
    (s.params.unknownOpPolicy = .nop → exec i s = .next (finished s (s.ip + 1) s)) ∧
    (s.params.unknownOpPolicy = .fault →
      exec i s = .next (faulted s .illegalInstruction .none)) :=
  ⟨fun hp => exec_of_ok_advance (h ▸ executeUnknown_of_nop (s := s.advance) arg hp),
    fun hp => exec_of_error (h ▸ executeUnknown_of_fault (s := s.advance) arg hp)⟩

/-- Settles O42: `NOP` does nothing of its own, and the four others execute as `UNKNOWN`. -/
theorem noOpsAndUnrecognisedInstructions : Obligations.NoOpsAndUnrecognisedInstructions := by
  intro arg s
  refine ⟨exec_of_ok_advance rfl, rfl, fun i hi => ?_⟩
  have hunknown : executeOf i = executeUnknown arg ∧ 27 ≤ i.opcode.toNat ∧ i.opcode.toNat ≤ 30 := by
    simp only [List.mem_cons, List.not_mem_nil, or_false] at hi
    rcases hi with rfl | rfl | rfl | rfl <;> exact ⟨rfl, by simp [Instr.opcode]⟩
  obtain ⟨hexecute, h27, h30⟩ := hunknown
  exact ⟨h27, h30, exec_of_executeOf_eq_unknown hexecute s⟩

end Sys2Proof.Machine
end

section
/-! The loads and the immediates (41_loads.md): what `LA` and `LB` find at each argument, the bytes that
the immediates put into a register, and the constants that a pair of immediates builds. -/

namespace Sys2Proof.Machine

/-! ### An instruction that writes one accumulator -/

theorem exec_of_ok_setA {i : Instr} {s : State} {v : Word}
    (h : executeOf i s.advance = .ok (s.advance.setA v)) :
    exec i s = .next (finished s (s.ip + 1) { s with a := v }) := exec_of_ok h

theorem exec_of_ok_setB {i : Instr} {s : State} {v : Word}
    (h : executeOf i s.advance = .ok (s.advance.setB v)) :
    exec i s = .next (finished s (s.ip + 1) { s with b := v }) := exec_of_ok h

/-! ### Loads -/

/-- What a load reads does not depend on the pointer. -/
theorem loadSelected_advance (s : State) (n : Nat) : s.advance.loadSelected n = s.loadSelected n := rfl

/-- R120, R121: both loads complete with the word that the argument selects. -/
theorem exec_loads_of_loadSelected_ok {s : State} {n : Nat} {v : Word} (h : s.loadSelected n = .ok v) :
    exec (.la (some n)) s = .next (finished s (s.ip + 1) { s with a := v }) ∧
    exec (.lb (some n)) s = .next (finished s (s.ip + 1) { s with b := v }) := by
  refine ⟨exec_of_ok_setA ?_, exec_of_ok_setB ?_⟩
  · rw [executeOf, executeLa_some, loadSelected_advance, h]; rfl
  · rw [executeOf, executeLb_some, loadSelected_advance, h]; rfl

/-- R122: both loads take the fault that the argument selects. -/
theorem exec_loads_of_loadSelected_error {s : State} {n : Nat} {r : Raise}
    (h : s.loadSelected n = .error r) :
    exec (.la (some n)) s = .next (faulted s r.kind r.reason) ∧
    exec (.lb (some n)) s = .next (faulted s r.kind r.reason) := by
  refine ⟨exec_of_error ?_, exec_of_error ?_⟩
  · rw [executeOf, executeLa_some, loadSelected_advance, h]; rfl
  · rw [executeOf, executeLb_some, loadSelected_advance, h]; rfl

/-- Settles O30: the argument selects a cache slot, an input or a fault. -/
theorem loadsReadCacheOrInput : Obligations.LoadsReadCacheOrInput := by
  intro s
  refine ⟨fun n h => ?cache, fun n h32 h8 => ?input, fun n h32 h8 => ?range, ?noLa, ?noLb,
    fun _ => ⟨rfl, rfl⟩⟩
  case cache => exact exec_loads_of_loadSelected_ok (loadSelected_cache s h)
  case input => exact exec_loads_of_loadSelected_ok (loadSelected_input s h32 h8)
  case range => exact exec_loads_of_loadSelected_error (loadSelected_range s h32 h8)
  case noLa => exact requiredArgumentMissingFaults (.la none) s rfl rfl
  case noLb => exact requiredArgumentMissingFaults (.lb none) s rfl rfl

/-! ### Immediates -/

theorem exec_lal_some (s : State) (n : Nat) :
    exec (.lal (some n)) s = .next (finished s (s.ip + 1) { s with a := lowByte n }) :=
  exec_of_ok_setA rfl

theorem exec_lbl_some (s : State) (n : Nat) :
    exec (.lbl (some n)) s = .next (finished s (s.ip + 1) { s with b := lowByte n }) :=
  exec_of_ok_setB rfl

theorem exec_lah_some (s : State) (n : Nat) :
    exec (.lah (some n)) s = .next (finished s (s.ip + 1) { s with a := s.a ||| highByte n }) :=
  exec_of_ok_setA rfl

theorem exec_lbh_some (s : State) (n : Nat) :
    exec (.lbh (some n)) s = .next (finished s (s.ip + 1) { s with b := s.b ||| highByte n }) :=
  exec_of_ok_setB rfl

/-- R10: the wrap of a natural number drops the bits from 16 up. -/
theorem wrap16_natCast (n : Nat) : wrap16 n = BitVec.ofNat 16 n := BitVec.ofInt_natCast 16 n

/-- A word given by its value has the bytes of the remainder and the quotient by 256. -/
theorem wrap16_add_mul_eq_append {l : Nat} (hl : l < 256) (h : Nat) :
    wrap16 (l + 256 * h) = BitVec.ofNat 8 h ++ BitVec.ofNat 8 l := by
  have hcast : (l + 256 * h : Int) = (l + 256 * h : Nat) := by push_cast; rfl
  apply BitVec.eq_of_toNat_eq
  rw [hcast, wrap16_natCast, BitVec.toNat_append,
    ← Nat.shiftLeft_add_eq_or_of_lt (BitVec.isLt _), Nat.shiftLeft_eq]
  simp only [BitVec.toNat_ofNat]
  omega

/-- R80: the low-byte immediate has high byte 0. -/
theorem lowByte_eq_append (n : Nat) : lowByte n = 0#8 ++ BitVec.ofNat 8 n := by
  have hmask : n &&& 0xFF = n % 256 := Nat.and_two_pow_sub_one_eq_mod n 8
  have hbytes := wrap16_add_mul_eq_append (Nat.mod_lt n (by decide)) 0
  have hmod : BitVec.ofNat 8 (n % 256) = BitVec.ofNat 8 n :=
    BitVec.eq_of_toNat_eq (by simp)
  rw [lowByte, hmask]
  simpa [hmod] using hbytes

/-- R80: the high-byte immediate has low byte 0. -/
theorem highByte_eq_append (n : Nat) : highByte n = BitVec.ofNat 8 n ++ 0#8 := by
  have hbytes := wrap16_add_mul_eq_append (l := 0) (by decide) n
  simpa [highByte, mul_comm] using hbytes

/-- R125: an OR with a high-byte immediate, byte by byte. -/
theorem or_highByte_eq_append (w : Word) (n : Nat) :
    w ||| highByte n = (w.extractLsb' 8 8 ||| BitVec.ofNat 8 n) ++ w.extractLsb' 0 8 := by
  have hw : w.extractLsb' 8 8 ++ w.extractLsb' 0 8 = w :=
    (BitVec.extractLsb'_append_extractLsb'_eq_extractLsb' (by rfl)).trans BitVec.extractLsb'_eq_self
  calc w ||| highByte n
      = w.extractLsb' 8 8 ++ w.extractLsb' 0 8 ||| BitVec.ofNat 8 n ++ 0#8 := by
        rw [hw, highByte_eq_append]
    _ = (w.extractLsb' 8 8 ||| BitVec.ofNat 8 n) ++ w.extractLsb' 0 8 := by
        rw [BitVec.or_append, BitVec.or_zero]

/-- Settles O31: the immediate replaces both bytes. -/
theorem lowByteImmediatesReplaceTheRegister : Obligations.LowByteImmediatesReplaceTheRegister := by
  intro s n
  rw [← lowByte_eq_append]
  exact ⟨exec_lal_some s n, exec_lbl_some s n, requiredArgumentMissingFaults (.lal none) s rfl rfl,
    requiredArgumentMissingFaults (.lbl none) s rfl rfl, fun _ => ⟨rfl, rfl⟩⟩

/-- Settles O32: the OR leaves the low byte alone, since the immediate has low byte 0. -/
theorem highByteImmediatesOrIntoTheRegister : Obligations.HighByteImmediatesOrIntoTheRegister := by
  intro s n
  rw [← or_highByte_eq_append, ← or_highByte_eq_append]
  exact ⟨exec_lah_some s n, exec_lbh_some s n, requiredArgumentMissingFaults (.lah none) s rfl rfl,
    requiredArgumentMissingFaults (.lbh none) s rfl rfl, fun _ => ⟨rfl, rfl⟩⟩

/-! ### Constants -/

/-- R127: an OR of the two immediates is the constant with these bytes. -/
theorem lowByte_or_highByte {l : Nat} (hl : l < 256) (h : Nat) :
    lowByte l ||| highByte h = wrap16 (l + 256 * h) := by
  rw [lowByte_eq_append, highByte_eq_append, BitVec.or_append, BitVec.zero_or, BitVec.or_zero,
    wrap16_add_mul_eq_append hl]

/-- R10: the signed value of a wrapped number that is in the signed range. -/
theorem sval_wrap16_of_lt {n : Int} (h0 : 0 ≤ n) (h : n < 32768) : sval (wrap16 n) = n := by
  rw [sval, BitVec.toInt_ofInt]
  exact Int.bmod_eq_of_le (by omega) (by omega)

/-- R10: a number with the sign bit set reads as itself less 2^16. -/
theorem sval_wrap16_of_le {n : Int} (h : 32768 ≤ n) (h16 : n < 65536) :
    sval (wrap16 n) = n - 65536 := by
  rw [sval, BitVec.toInt_ofInt, ← Int.sub_bmod_right]
  exact Int.bmod_eq_of_le (by omega) (by omega)

/-- R10: every word is the wrap of its unsigned value. -/
theorem wrap16_uval (c : Word) : wrap16 (uval c) = c := by
  rw [wrap16_natCast, BitVec.ofNat_toNat, BitVec.setWidth_eq]

/-- Settles O33: the OR meets a register whose high byte is 0, and a word's two bytes are the
remainder and the quotient of its value by 256. -/
theorem twoImmediatesBuildAnyConstant : Obligations.TwoImmediatesBuildAnyConstant := by
  refine ⟨fun s l h hl hlt => ?build, fun c => ?reach⟩
  case build =>
    have hword := lowByte_or_highByte hl h
    have hpositive (h128 : h < 128) : sval (lowByte l ||| highByte h) = l + 256 * h :=
      hword ▸ sval_wrap16_of_lt (by omega) (by omega)
    have hnegative (h128 : 128 ≤ h) : sval (lowByte l ||| highByte h) = l + 256 * h - 65536 :=
      hword ▸ sval_wrap16_of_le (by omega) (by omega)
    exact ⟨⟨_, _, exec_lal_some s l, exec_lah_some _ h, hword, rfl, hpositive, hnegative⟩,
      ⟨_, _, exec_lbl_some s l, exec_lbh_some _ h, hword, rfl, hpositive, hnegative⟩⟩
  case reach =>
    have hc : uval c < 65536 := c.isLt
    refine ⟨uval c % 256, uval c / 256, Nat.mod_lt _ (by decide), by omega, ?_⟩
    have hvalue : ((uval c % 256 : Nat) : Int) + 256 * (uval c / 256 : Nat) = uval c := by omega
    rw [hvalue, wrap16_uval]

end Sys2Proof.Machine
end

section
/-! The store and the display (42_store_output.md): the cache slots, the plain output registers, the
position of a screen operation, and what a write to output register 6 does at it. -/

namespace Sys2Proof.Machine

/-! ### The position fields -/

/-- R143: the mask `0x3F` keeps the low six bits of a word. -/
theorem ofNat_extractLsb'_eq_and_mask (w : Word) :
    BitVec.ofNat 16 (w.extractLsb' 0 6).toNat = w &&& 0x3F#16 := by
  have hmask : w.toNat &&& 63 = w.toNat % 64 := Nat.and_two_pow_sub_one_eq_mod w.toNat 6
  apply BitVec.eq_of_toNat_eq
  simp only [BitVec.extractLsb'_toNat, Nat.shiftRight_zero, BitVec.toNat_and, BitVec.toNat_ofNat,
    Nat.reducePow, Nat.reduceMod, hmask]
  omega

/-- R143: the shift by 8 copies the sign above bit 7 only, so its low six bits are bits 13 to 8. -/
theorem extractLsb'_sshiftRight_eight (v : Word) :
    (v.sshiftRight 8).extractLsb' 0 6 = v.extractLsb' 8 6 := by
  ext k hk
  have hin : 8 + k < 16 := by omega
  simp [BitVec.getLsbD_sshiftRight, hin, show ¬ 16 ≤ k by omega]

/-- Settles O38: both fields are the low six bits of a word, `v` itself or its shift. -/
theorem positionIsTheTwoSixBitFields : Obligations.PositionIsTheTwoSixBitFields := by
  intro v
  refine ⟨ofNat_extractLsb'_eq_and_mask v, ?_⟩
  rw [← ofNat_extractLsb'_eq_and_mask, extractLsb'_sshiftRight_eight]
  rfl

/-! ### Cache slots and plain output registers -/

/-- R141: a write to an output register other than 6 only appends the entry. -/
theorem executeSva_plain (s : State) {n : Nat} (h : 32 ≤ n) (h6 : n % 32 ≠ 6) :
    executeSva (some n) s = .ok (s.emit (Fin.ofNat 32 n) s.a) := by
  rw [executeSva_device s h]
  exact writeOutput_plain s s.a fun hr => h6 (congrArg Fin.val hr)

/-- Settles O34: the argument selects a cache slot or an output register. -/
theorem storeWritesCacheOrAppends : Obligations.StoreWritesCacheOrAppends := by
  intro s
  refine ⟨fun n h => ?cache, fun n h32 h6 => ?output, ?missing⟩
  case cache => exact exec_of_ok (i := .sva (some n)) (executeSva_cache s.advance h)
  case output => exact exec_of_ok (i := .sva (some n)) (executeSva_plain s.advance h32 h6)
  case missing => exact requiredArgumentMissingFaults (.sva none) s rfl rfl

/-! ### Output register 6 -/

theorem State.screenOp_of_command (s : State) {v : Word} {c : ScreenCommand} (h : v = c.code)
    (pos : Fin 64 × Fin 64) : s.screenOp v pos = s.runCommand c pos.1 pos.2 := by
  rw [State.screenOp, (screenCommand_eq_some_iff v c).mpr h]

theorem State.screenOp_of_other (s : State) {v : Word} (h : screenCommand v = none)
    (pos : Fin 64 × Fin 64) : s.screenOp v pos = s.otherCommand v := by
  rw [State.screenOp, h]

/-- R144: the five literals are all the values with a screen operation. -/
theorem screenCommand_eq_none_of_not_mem {v : Word}
    (h : v ∉ [0x0001#16, 0x0002#16, 0x0004#16, 0x0008#16, 0x0010#16]) :
    screenCommand v = none := by
  refine Option.eq_none_iff_forall_ne_some.mpr fun c hc => h ?_
  rw [(screenCommand_eq_some_iff v c).mp hc]
  cases c <;> decide

/-- R144, R146: a value that is no command has no effect under `ENUM`, nor when it has at most one
command bit. -/
theorem State.otherCommand_eq_self {s : State} {v : Word}
    (h : s.params.screenOpMode = .enum ∨ severalCommandBits v = false) : s.otherCommand v = s := by
  unfold State.otherCommand
  rcases h with henum | hbits
  · rw [henum]
  · cases s.params.screenOpMode <;> simp [hbits]

/-- U5: under `FLAGS` several command bits leave both grids free. -/
theorem State.otherCommand_eq_freeDisplay {s : State} {v : Word}
    (hflags : s.params.screenOpMode = .flags) (hbits : severalCommandBits v = true) :
    s.otherCommand v = s.freeDisplay := by
  simp [State.otherCommand, hflags, hbits]

/-- R140: a store to output register 6 is a write to it, whatever the bits of the argument above. -/
theorem executeSva_display (s : State) {n : Nat} (h : 32 ≤ n) (h6 : n % 32 = 6) :
    executeSva (some n) s = s.writeOutput 6 s.a := by
  have hreg : (⟨n % 32, Nat.mod_lt _ (by decide)⟩ : Fin 32) = 6 := Fin.ext h6
  rw [executeSva_device s h, hreg]

/-- R145: a store to output register 6 without a last position takes the display protocol fault. -/
theorem exec_sva_display_of_none {s : State} {n : Nat} (h : 32 ≤ n) (h6 : n % 32 = 6)
    (hp : lastPosition s.outHistory = none) :
    exec (.sva (some n)) s = .next (faulted s .displayProtocolFault .none) := by
  refine exec_of_error (r := .displayProtocolFault) ?_
  rw [executeOf, executeSva_display _ h h6, writeOutput_display, State.advance_outHistory, hp]

/-- R140: a store to output register 6 appends the pair and runs the screen operation at the last
position. -/
theorem exec_sva_display_of_some {s : State} {n : Nat} {p : Word} (h : 32 ≤ n) (h6 : n % 32 = 6)
    (hp : lastPosition s.outHistory = some p) :
    exec (.sva (some n)) s = .next (finished s (s.ip + 1)
      ((s.advance.emit 6 s.a).screenOp s.a (decodePosition p))) := by
  have hexecute : executeOf (.sva (some n)) s.advance =
      .ok ((s.advance.emit 6 s.a).screenOp s.a (decodePosition p)) := by
    rw [executeOf, executeSva_display _ h h6, writeOutput_display, State.advance_outHistory, hp]
    rfl
  rw [exec_of_ok hexecute, State.screenOp_ip]; rfl

/-- Settles O35: a register-7 entry is what the last position is found by. -/
theorem displayWithoutPositionFaults : Obligations.DisplayWithoutPositionFaults := by
  intro s n h h6
  refine ⟨fun hnone => ?fault, fun ⟨v, hv⟩ => ?complete⟩
  case fault => exact exec_sva_display_of_none h h6 ((lastPosition_eq_none_iff _).mpr hnone)
  case complete =>
    cases hp : lastPosition s.outHistory with
    | none => exact absurd hv ((lastPosition_eq_none_iff _).mp hp v)
    | some p => exact ⟨_, exec_sva_display_of_some h h6 hp, by simp [finished]⟩

/-- Settles O36: each literal is the value of one command. -/
theorem displayCommandsRunAtTheLastPosition : Obligations.DisplayCommandsRunAtTheLastPosition := by
  intro s n p x y h h6 hp hpos
  have hrun (c : ScreenCommand) (hc : s.a = c.code) : exec (.sva (some n)) s =
      .next (finished s (s.ip + 1) ((s.advance.emit 6 s.a).runCommand c x y)) := by
    rw [exec_sva_display_of_some h h6 hp, hpos, State.screenOp_of_command _ hc]
  exact ⟨hrun .refresh, hrun .reset, hrun .on, hrun .toggle, hrun .off⟩

/-- Settles O37: a value that is no command leaves the grids alone or makes both free. -/
theorem otherDisplayValuesAreOnlyRecorded : Obligations.OtherDisplayValuesAreOnlyRecorded := by
  intro s n p h h6 hp hother
  rw [exec_sva_display_of_some h h6 hp,
    State.screenOp_of_other _ (screenCommand_eq_none_of_not_mem hother)]
  refine ⟨fun hrecorded => ?recorded, fun hflags hbits => ?free⟩
  case recorded => rw [State.otherCommand_eq_self (s := s.advance.emit 6 s.a) hrecorded]; rfl
  case free =>
    rw [State.otherCommand_eq_freeDisplay (s := s.advance.emit 6 s.a) hflags hbits]
    exact ⟨_, _, _, rfl⟩

end Sys2Proof.Machine
end

section
/-! The halt (43_halt.md): what `STP` changes, and what the step that executes it returns. -/

namespace Sys2Proof.Machine

/-- R160: with the run flag cleared, the end check has nothing left to decide. -/
theorem exec_stp (arg : Option Nat) (s : State) :
    exec (.stp arg) s = .next
      { s with
        ip := s.ip + 1
        clockCycle := Params.nextCycle s.params s.clockCycle
        running := false } :=
  exec_of_ok (i := .stp arg) (t := s.advance.halt) rfl

/-- Settles O41: the step is the execution of `STP`, which leaves the pointer at the next instruction
and no fault, so R102 gives what it returns. -/
theorem stopClearsTheRunFlag : Obligations.StopClearsTheRunFlag := by
  intro arg s
  refine ⟨exec_stp arg s, rfl, fun entry hr hk hf hdecode hnext => ?_⟩
  have hstep := step_of_fetch_some hr hf
  rw [hdecode, exec_stp] at hstep
  obtain ⟨hinside, -, -⟩ := stepReturnsTheNextInstruction s _ hk hstep
  exact hinside hk hnext

end Sys2Proof.Machine
end

section
/-! The ALU (44_alu.md): the wrap is a homomorphism from the integers, so the arithmetic is that of
the 16-bit words, and a shift by any count is the shift of the pattern. -/

namespace Sys2Proof.Machine

/-! ### The wrap as a homomorphism -/

theorem wrap16_add (m n : Int) : wrap16 (m + n) = wrap16 m + wrap16 n := BitVec.ofInt_add m n

theorem wrap16_sub (m n : Int) : wrap16 (m - n) = wrap16 m - wrap16 n := by
  rw [Int.sub_eq_add_neg, wrap16_add, BitVec.sub_eq_add_neg, ← BitVec.ofInt_neg]

theorem wrap16_mul (m n : Int) : wrap16 (m * n) = wrap16 m * wrap16 n := BitVec.ofInt_mul m n

/-- R10: every word is the wrap of its signed value. -/
theorem wrap16_sval (w : Word) : wrap16 (sval w) = w := BitVec.ofInt_toInt

/-! ### Arithmetic as word arithmetic -/

/-- R170: the wrapped sum of the signed values is the sum of the words. -/
theorem aluAdd_eq_add (a b : Word) : aluAdd a b = a + b := by
  rw [aluAdd, wrap16_add, wrap16_sval, wrap16_sval]

/-- R171: the wrapped difference of the signed values is the difference of the words. -/
theorem aluSub_eq_sub (a b : Word) : aluSub a b = a - b := by
  rw [aluSub, wrap16_sub, wrap16_sval, wrap16_sval]

/-- R177: the wrapped product of the signed values is the product of the words. -/
theorem aluMul_eq_mul (a b : Word) : aluMul a b = a * b := by
  rw [aluMul, wrap16_mul, wrap16_sval, wrap16_sval]

/-- R178: the wrapped increment of the signed value is the increment of the word. -/
theorem aluIncrement_eq_add_one (b : Word) : aluIncrement b = b + 1#16 := by
  rw [aluIncrement, wrap16_add, wrap16_sval]; rfl

/-- R170: the operands of a sum may be read as unsigned. -/
theorem aluAdd_eq_wrap16_uval (a b : Word) : aluAdd a b = wrap16 (uval a + uval b) := by
  rw [aluAdd_eq_add, wrap16_add, wrap16_uval, wrap16_uval]

/-- R177: the operands of a product may be read as unsigned. -/
theorem aluMul_eq_wrap16_uval (a b : Word) : aluMul a b = wrap16 (uval a * uval b) := by
  rw [aluMul_eq_mul, wrap16_mul, wrap16_uval, wrap16_uval]

/-- R179: a difference undoes a sum. -/
theorem aluSub_aluAdd (a b : Word) : aluSub (aluAdd a b) b = a := by
  rw [aluSub_eq_sub, aluAdd_eq_add, BitVec.add_sub_cancel]

/-- R179: a sum undoes a difference. -/
theorem aluAdd_aluSub (a b : Word) : aluAdd (aluSub a b) b = a := by
  rw [aluAdd_eq_add, aluSub_eq_sub, BitVec.sub_add_cancel]

theorem uval_aluAdd (a b : Word) : uval (aluAdd a b) = (uval a + uval b) % 65536 := by
  rw [aluAdd_eq_add]; exact BitVec.toNat_add a b

/-! ### Shifts as pattern shifts -/

/-- R10: a wrapped power of two is a single bit, and 0 from 2^16 on. -/
theorem wrap16_two_pow (n : Nat) : wrap16 (2 ^ n) = BitVec.twoPow 16 n := by
  have hcast : ((2 ^ n : Nat) : Int) = 2 ^ n := by push_cast; rfl
  apply BitVec.eq_of_toNat_eq
  rw [← hcast, wrap16_natCast, BitVec.toNat_ofNat, BitVec.toNat_twoPow]

/-- R175: the exact product with a power of two wraps to the pattern shift. -/
theorem wrap16_mul_two_pow (a : Word) (n : Nat) : wrap16 (sval a * 2 ^ n) = a <<< n := by
  rw [wrap16_mul, wrap16_sval, wrap16_two_pow, BitVec.mul_twoPow_eq_shiftLeft]

/-- R176: the exact floor quotient by a power of two wraps to the arithmetic pattern shift. -/
theorem wrap16_div_two_pow (a : Word) (n : Nat) : wrap16 (sval a / 2 ^ n) = a.sshiftRight n := by
  rw [BitVec.sshiftRight, Int.shiftRight_eq_div_pow]
  push_cast
  rfl

/-- R176: by a positive divisor, the floor quotient is the quotient that the model computes. -/
theorem wrap16_fdiv_two_pow (a : Word) (n : Nat) :
    wrap16 (Int.fdiv (sval a) (2 ^ n)) = a.sshiftRight n := by
  rw [Int.fdiv_eq_ediv_of_nonneg _ (by positivity), wrap16_div_two_pow]

/-- R176, D7: 2^15 exceeds every signed value but its own negative, so the floor is 0 or -1. -/
theorem sval_div_two_pow_of_le (a : Word) {n : Nat} (h : 15 ≤ n) :
    sval a / 2 ^ n = if sval a < 0 then -1 else 0 := by
  have hpow : (2 ^ 15 : Int) ≤ 2 ^ n := pow_le_pow_right₀ (by decide) h
  have hlower : -2 ^ 15 ≤ sval a := BitVec.le_toInt a
  have hupper : sval a < 2 ^ 15 := BitVec.toInt_lt
  split
  · next hneg => exact Int.ediv_eq_neg_one_of_neg_of_le hneg (by omega)
  · next hnonneg => exact Int.ediv_eq_zero_of_lt (by omega) (by omega)

/-- R176, D7: from count 15 on an arithmetic shift leaves copies of the sign bit. -/
theorem sshiftRight_of_le (a : Word) {n : Nat} (h : 15 ≤ n) :
    a.sshiftRight n = if sval a < 0 then 0xFFFF#16 else 0#16 := by
  rw [← wrap16_div_two_pow, sval_div_two_pow_of_le a h, apply_ite wrap16]; rfl

/-- R175, D7: the limit of the count at 16 changes no result, since 16 shifts every bit out. -/
theorem shiftUp_eq_shiftLeft (a : Word) (n : Nat) : shiftUp a n = a <<< n := by
  rw [shiftUp, wrap16_mul_two_pow]
  rcases Nat.le_total n 16 with h | h
  · rw [Nat.min_eq_left h]
  · rw [Nat.min_eq_right h, BitVec.shiftLeft_eq_zero h, BitVec.shiftLeft_eq_zero (Nat.le_refl 16)]

/-- R176, D7: the limit of the count at 16 changes no result, since 16 leaves the sign only. -/
theorem shiftDown_eq_sshiftRight (a : Word) (n : Nat) : shiftDown a n = a.sshiftRight n := by
  rw [shiftDown, wrap16_div_two_pow]
  rcases Nat.le_total n 16 with h | h
  · rw [Nat.min_eq_left h]
  · rw [Nat.min_eq_right h, sshiftRight_of_le a (by decide), sshiftRight_of_le a (by omega)]

/-! ### The instructions -/

theorem exec_add (arg : Option Nat) (s : State) :
    exec (.add arg) s = .next (finished s (s.ip + 1) { s with a := aluAdd s.a s.b }) :=
  exec_of_ok_setA rfl

theorem exec_sub (arg : Option Nat) (s : State) :
    exec (.sub arg) s = .next (finished s (s.ip + 1) { s with a := aluSub s.a s.b }) :=
  exec_of_ok_setA rfl

/-- R175: `SUP` shifts the pattern of `a` up, whatever the count. -/
theorem exec_sup_some (s : State) (n : Nat) :
    exec (.sup (some n)) s = .next (finished s (s.ip + 1) { s with a := s.a <<< n }) :=
  shiftUp_eq_shiftLeft s.a n ▸ exec_of_ok_setA rfl

/-- R176: `SDN` shifts the pattern of `a` down and keeps its sign, whatever the count. -/
theorem exec_sdn_some (s : State) (n : Nat) :
    exec (.sdn (some n)) s = .next (finished s (s.ip + 1) { s with a := s.a.sshiftRight n }) :=
  shiftDown_eq_sshiftRight s.a n ▸ exec_of_ok_setA rfl

/-! ### The statements -/

/-- Settles O45: both exact results are pattern shifts, and so are the model's limited counts. -/
theorem shiftsAreExactAtEveryCount : Obligations.ShiftsAreExactAtEveryCount := by
  intro s n
  have hup := wrap16_mul_two_pow s.a n
  have hdown := wrap16_fdiv_two_pow s.a n
  rw [hup, hdown]
  exact ⟨exec_sup_some s n, exec_sdn_some s n,
    requiredArgumentMissingFaults (.sup none) s rfl rfl,
    requiredArgumentMissingFaults (.sdn none) s rfl rfl, rfl, rfl, fun _ => ⟨rfl, rfl⟩⟩

/-- Settles O46: the pattern shifts have no bit of `a` left but copies of the sign. -/
theorem longShiftsLeaveZeroOrSign : Obligations.LongShiftsLeaveZeroOrSign := by
  intro a n
  rw [shiftUp_eq_shiftLeft, shiftDown_eq_sshiftRight]
  exact ⟨BitVec.shiftLeft_eq_zero, sshiftRight_of_le a⟩

/-- Settles O47: the values of word arithmetic, and the difference as the inverse of the sum. -/
theorem arithmeticIsModuloTwoToSixteen : Obligations.ArithmeticIsModuloTwoToSixteen := by
  intro a b
  refine ⟨uval_aluAdd a b, ?difference, ?product, ?increment⟩
  case difference => rw [← uval_aluAdd, aluAdd_aluSub]
  case product => rw [aluMul_eq_mul]; exact BitVec.toNat_mul a b
  case increment => rw [aluIncrement_eq_add_one]; exact BitVec.toNat_add b 1#16

/-- Settles O48: after `ADD` and `SUB` the accumulator holds `aluSub (aluAdd s.a s.b) s.b`. -/
theorem addThenSubRestores : Obligations.AddThenSubRestores := by
  intro arg arg' s
  refine ⟨_, _, exec_add arg s, exec_sub arg' _, ?_⟩
  simp only [finished, aluSub_aluAdd]

/-- Settles O43: each instruction writes its ALU result, and a sum or product may be read unsigned. -/
theorem arithmeticWraps : Obligations.ArithmeticWraps := fun arg s =>
  ⟨exec_add arg s, exec_sub arg s, exec_of_ok_setA rfl, exec_of_ok_setB rfl,
    aluAdd_eq_wrap16_uval s.a s.b, aluMul_eq_wrap16_uval s.a s.b, rfl, rfl, rfl, rfl⟩

/-- Settles O44: each instruction writes only `a`, and its ALU function is the operation on words. -/
theorem bitwiseOperations : Obligations.BitwiseOperations := fun _ _ =>
  ⟨exec_of_ok_setA rfl, exec_of_ok_setA rfl, exec_of_ok_setA rfl, rfl, rfl, rfl⟩

end Sys2Proof.Machine
end

section
/-! The bank windower (45_bank.md): what `RW`, `RR` and `RC` complete with, what a switch leaves in
`ram` and brings into the window, and that two switches lose no word. -/

namespace Sys2Proof.Machine

/-! ### The window -/

/-- R200: `RW` completes with the one window word written. -/
theorem exec_rw_eq_finished (arg : Option Nat) (s : State) :
    exec (.rw arg) s = .next (finished s (s.ip + 1)
      { s with loadedBank := s.loadedBank.set (windowIndex s.b) s.a }) :=
  exec_of_ok (t := s.advance.writeWindow (windowIndex s.b) s.a) rfl

/-- R202: `RR` completes with the window word in `a`. -/
theorem exec_rr (arg : Option Nat) (s : State) :
    exec (.rr arg) s =
      .next (finished s (s.ip + 1) { s with a := s.loadedBank[windowIndex s.b] }) :=
  exec_of_ok_setA rfl

/-- Settles O49: both results, and the window's read after a write. -/
theorem windowReadsAndWrites : Obligations.WindowReadsAndWrites := by
  intro arg s
  refine ⟨exec_rw_eq_finished arg s, exec_rr arg s, rfl, fun x b' hindex => ?readBack, rfl, rfl⟩
  refine ⟨_, _, exec_rw_eq_finished arg s, exec_rr arg _, ?_⟩
  simp [finished, hindex]

/-! ### The switch of the bank -/

/-- R204: the write-back stores the window into the words of its bank and leaves the others. -/
theorem State.read_writtenBack_eq_dite (s : State) (k : Nat) :
    s.writtenBack.read k =
      if h : 16 * s.loadedBankIndex.val ≤ k ∧ k < 16 * s.loadedBankIndex.val + 16 then
        s.loadedBank[k - 16 * s.loadedBankIndex.val] else s.ram.read k := by
  simp [State.writtenBack, Memory.read_writeBlock]

/-- R204: the write-back of another bank does not reach the bank that is loaded. -/
theorem State.switchBank_loadedBank_getElem {s : State} {target : Fin 64}
    (hother : target ≠ s.loadedBankIndex) {j : Nat} (hj : j < 16) :
    (s.switchBank target).loadedBank[j] = s.ram.read (16 * target.val + j) := by
  rw [State.switchBank_loadedBank, Memory.readBank_getElem]
  exact (s.read_writtenBack target ⟨j, hj⟩).trans (if_neg hother)

/-- R205: `RC` to the loaded bank does the common step actions only. -/
theorem exec_rc_loaded {s : State} (arg : Option Nat) (h : targetBank s.b = s.loadedBankIndex) :
    exec (.rc arg) s = .next (finished s (s.ip + 1) s) :=
  exec_of_ok_advance (executeRc_loaded (s := s.advance) arg h)

/-- R204: `RC` to another bank completes with the switch. -/
theorem exec_rc_other {s : State} (arg : Option Nat) (h : targetBank s.b ≠ s.loadedBankIndex) :
    exec (.rc arg) s = .next (finished s (s.ip + 1) (s.switchBank (targetBank s.b))) :=
  exec_of_ok (t := s.advance.switchBank (targetBank s.b)) (executeRc_other (s := s.advance) arg h)

/-- Settles O50: the memory is the write-back and the window is read from it. -/
theorem bankChangeWritesBackAndReloads : Obligations.BankChangeWritesBackAndReloads := by
  intro arg s
  refine ⟨targetBank_val_eq_sval s.b, targetBank_val_eq_extractLsb' s.b, rfl, exec_rc_loaded arg,
    fun hother => ?other⟩
  exact ⟨s.writtenBack, s.writtenBack.readBank (targetBank s.b), exec_rc_other arg hother,
    s.read_writtenBack_eq_dite, fun _ => State.switchBank_loadedBank_getElem hother⟩

/-! ### A change and a change back -/

/-- R204, R205: after `RC` the target bank is the loaded one, and every word has its value still. -/
theorem exec_rc_loads_targetBank (arg : Option Nat) (s : State) :
    ∃ t, exec (.rc arg) s = .next t ∧ t.loadedBankIndex = targetBank s.b ∧
      ∀ k j, t.effRam k j = s.effRam k j := by
  by_cases h : targetBank s.b = s.loadedBankIndex
  · exact ⟨_, exec_rc_loaded arg h, h.symm, fun _ _ => rfl⟩
  · exact ⟨_, exec_rc_other arg h, rfl, s.effRam_switchBank (targetBank s.b)⟩

/-- R28, R37: two states with one bank loaded that agree on every word have the same window. -/
theorem State.loadedBank_eq_of_effRam_eq {s t : State}
    (hindex : t.loadedBankIndex = s.loadedBankIndex)
    (hwords : ∀ k j, t.effRam k j = s.effRam k j) : t.loadedBank = s.loadedBank := by
  apply Vector.ext
  intro j hj
  simpa [State.effRam, State.readWindow, hindex] using hwords s.loadedBankIndex ⟨j, hj⟩

/-- Settles O53: neither change alters a word, so the bank loaded again has the words it had. -/
theorem bankChangeAndBackRestoresTheWindow : Obligations.BankChangeAndBackRestoresTheWindow := by
  intro arg arg' s b' hback
  obtain ⟨t, ht, -, haway⟩ := exec_rc_loads_targetBank arg s
  obtain ⟨u, hu, hloaded, hreturn⟩ := exec_rc_loads_targetBank arg' { t with b := b' }
  have hindex : u.loadedBankIndex = s.loadedBankIndex := hloaded.trans hback
  have hwords : ∀ k j, u.effRam k j = s.effRam k j := fun k j => (hreturn k j).trans (haway k j)
  exact ⟨t, u, ht, hu, State.loadedBank_eq_of_effRam_eq hindex hwords, hindex⟩

end Sys2Proof.Machine
end

section
/-! The jumps (46_jumps.md): where each jump leaves the pointer, which signed comparison decides it, and
that a run that leaves the program ends without a fault. -/

namespace Sys2Proof.Machine

/-! ### The run off the end -/

/-- R242: a step that leaves another fault status than it found has not moved the pointer. -/
theorem step_keeps_faultKind_or_ip {s t : State} (h : step s = .next t) :
    t.faultKind = s.faultKind ∨ t.ip = s.ip := by
  obtain ⟨-, ⟨r, rfl⟩ | ⟨i, u, hu, rfl⟩⟩ := step_cases h
  · exact .inr rfl
  · obtain ⟨-, -, -, -, hkind, -⟩ := hu.unchanged
    exact .inl (by simp [hkind])

/-- Settles O57: a fault would have left the pointer inside the program, and so would a machine that
runs on; R102 gives the sentinel. -/
theorem runOffHaltsWithoutFault : Obligations.RunOffHaltsWithoutFault := by
  intro s t hs hinside hstep hpast
  have hkind : t.faultKind = .none := by
    rcases step_keeps_faultKind_or_ip hstep with hkept | hip
    · exact hkept.trans hs
    · omega
  have hhalted : t.running = false := by
    by_contra hr
    have hlt := step_ip_inside hstep (by simpa using hr)
    rw [step_keeps_program hstep] at hlt
    omega
  obtain ⟨-, hsentinel, -⟩ := stepReturnsTheNextInstruction s t hs hstep
  exact ⟨hkind, hhalted, hsentinel hkind hpast⟩

/-! ### The unconditional jump -/

/-- R220: the jump overwrites the pointer that the fetch advanced. -/
theorem exec_jmp_some (s : State) (n : Nat) :
    exec (.jmp (some n)) s = .next (finished s n s) :=
  exec_of_ok (i := .jmp (some n)) (t := s.advance.setIp n) rfl

/-- Settles O55: without an argument `JMP` is one of the instructions of class REQ. -/
theorem jumpSetsThePointer : Obligations.JumpSetsThePointer := fun s n =>
  ⟨exec_jmp_some s n, requiredArgumentMissingFaults (.jmp none) s rfl rfl, fun _ => rfl⟩

/-! ### The conditional jumps -/

section
variable {i : Instr} {c : Condition} {n : Nat} {s : State} {P : Prop} [Decidable P]

/-- R221 to R226: a conditional jump whose condition says `P` goes to its argument exactly when `P`
holds. -/
theorem exec_jumpIf_of_holds_iff (hi : executeOf i = executeJumpIf c (some n))
    (hc : c.holds s.a s.b = true ↔ P) :
    exec i s = .next (finished s (if P then n else s.ip + 1) s) := by
  have hexecute : executeOf i s.advance =
      .ok (if c.holds s.a s.b then s.advance.setIp n else s.advance) := by
    rw [hi, executeJumpIf_some, State.advance_a, State.advance_b]
  rw [exec_of_ok hexecute]
  by_cases hP : P
  · simp only [hc.mpr hP, hP, if_true]; rfl
  · simp only [mt hc.mp hP, hP, if_false]; rfl

/-- R222, R225, R226: a conditional jump whose condition denies `P` falls through exactly when `P`
holds. -/
theorem exec_jumpIf_of_holds_iff_not (hi : executeOf i = executeJumpIf c (some n))
    (hc : c.holds s.a s.b = true ↔ ¬ P) :
    exec i s = .next (finished s (if P then s.ip + 1 else n) s) := by
  rw [exec_jumpIf_of_holds_iff hi hc, ite_not]

end

/-- Settles O56: `JE`, `JG` and `JL` test the three signed comparisons, and `JNE`, `JLE` and `JGE`
their complements. -/
theorem conditionalJumpsCompareSigned : Obligations.ConditionalJumpsCompareSigned := by
  intro s n
  refine ⟨?je, ?jne, ?jg, ?jl, ?jge, ?jle, fun i hi => ?missing,
    fun _ => ⟨rfl, rfl, rfl, rfl, rfl, rfl⟩⟩
  case je | jg | jl => exact exec_jumpIf_of_holds_iff rfl (by simp [Condition.holds])
  case jne | jge | jle => exact exec_jumpIf_of_holds_iff_not rfl (by simp [Condition.holds])
  case missing =>
    have hrequired : argClass i = .required ∧ i.arg = none := by
      simp only [List.mem_cons, List.not_mem_nil, or_false] at hi
      rcases hi with rfl | rfl | rfl | rfl | rfl | rfl <;> exact ⟨rfl, rfl⟩
    obtain ⟨hclass, harg⟩ := hrequired
    exact requiredArgumentMissingFaults i s hclass harg

end Sys2Proof.Machine
end

section
/-! The faults of an instruction (60_exceptions.md): the fault an instruction leaves is one it raised
itself, and each of them has its cause in the table. -/

namespace Sys2Proof.Machine

/-- R241, R242: the effects and the common step actions leave the fault status alone, so only a fault
that the instruction raised itself can put a kind where there was none. -/
theorem exec_raises_of_faultKind_ne_none {i : Instr} {s t : State} (hs : s.faultKind = .none)
    (h : exec i s = .next t) (ht : t.faultKind ≠ .none) :
    ∃ r, Raises i s.advance r ∧ t = faulted s r.kind r.reason := by
  rcases exec_cases h with ⟨r, hr, rfl⟩ | ⟨u, hu, rfl⟩
  · exact ⟨r, hr, takeFault_eq_faulted r s⟩
  · obtain ⟨-, -, -, -, hkind, -, -⟩ := hu.unchanged
    exact absurd (by simp [hkind, hs]) ht

/-- Settles O17: each thing that an execute part can raise is one row of the table. -/
theorem noFaultWithoutItsCause : Obligations.NoFaultWithoutItsCause := by
  intro i s t hs h ht
  obtain ⟨r, hr, hfaulted⟩ := exec_raises_of_faultKind_ne_none hs h ht
  cases hr with
  | missingArg hclass harg => exact .inl ⟨hclass, harg, hfaulted⟩
  | inputRange n hi h32 h8 => exact .inr (.inl ⟨n, hi, h32, h8, hfaulted⟩)
  | display n hi h32 h6 hp =>
    have hnone : ∀ v, ((7 : Fin 32), v) ∉ s.outHistory := (lastPosition_eq_none_iff _).mp hp
    exact .inr (.inr (.inl ⟨n, hi, h32, h6, hnone, hfaulted⟩))
  | illegal hpolicy h27 h31 =>
    exact .inr (.inr (.inr ⟨hpolicy, h27, Nat.le_of_lt_succ h31, hfaulted⟩))

end Sys2Proof.Machine
end

section
/-! The reset and the host between steps (70_reset_and_hazards.md): a halted machine stays as it halted
until a reset, and the next step sees what the host has written. -/

namespace Sys2Proof.Machine

/-! ### What only a reset does -/

/-- R40: a machine with a recorded fault is halted. -/
theorem State.HostInv.running_eq_false_of_fault {s : State} (hs : s.HostInv)
    (hf : s.faultKind ≠ .none) : s.running = false :=
  Bool.eq_false_of_not_eq_true (mt hs.runningNoFault hf)

/-- R108, R271, R274: a halted machine has no step, and the host's writes touch neither the run flag
nor the fault status. -/
theorem hostAct_of_halted {act : HostAction} {s t : State} (hr : s.running = false)
    (h : hostAct act s = .next t) (hact : ∀ p text, act ≠ .reset p text) :
    t.running = false ∧ t.faultKind = s.faultKind ∧ t.faultReason = s.faultReason ∧
      t.faultIp = s.faultIp := by
  cases act with
  | reset p text => exact absurd rfl (hact p text)
  | step => cases (step_halted hr).symm.trans h
  | writeInput | writeProgram => cases h; exact ⟨hr, rfl, rfl, rfl⟩

/-- Settles O23: by R40 a machine with a recorded fault is halted too. -/
theorem onlyResetRestartsOrClearsAFault : Obligations.OnlyResetRestartsOrClearsAFault := by
  intro act s t hs h hact
  refine ⟨fun hr => (hostAct_of_halted hr h hact).1, fun hf => ?_⟩
  obtain ⟨hhalted, hkind, hreason, hip⟩ :=
    hostAct_of_halted (hs.running_eq_false_of_fault hf) h hact
  exact ⟨hkind, hreason, hip, hhalted⟩

/-! ### What the host writes -/

/-- R281: the port that the host wrote reads back what was written. -/
theorem readInput_hostWriteInput_same (i : Fin 8) (v : Word) (s : State) :
    (hostWriteInput i v s).readInput i = v := Vector.getElem_set_self i.isLt

/-- R51, R281: a load with argument `32 + i` selects the port that the host wrote. -/
theorem loadSelected_hostWriteInput_same (i : Fin 8) (v : Word) (s : State) :
    (hostWriteInput i v s).loadSelected (32 + i.val) = .ok v := by
  have hport : (32 + i.val) % 32 = i.val := by omega
  rw [loadSelected_input _ (Nat.le_add_right 32 i.val) (hport.trans_lt i.isLt)]
  simp only [hport, Fin.eta, readInput_hostWriteInput_same]

/-- Settles O60: the load reads the written port, and the fetch looks into the written program. -/
theorem hostWritesAreSeenByTheNextStep : Obligations.HostWritesAreSeenByTheNextStep := by
  refine ⟨fun s i v => ⟨rfl, ?load⟩,
    fun s program => ⟨rfl, fun hr hlt => ?inside, fun hr hle => ?beyond⟩⟩
  case load => exact (exec_loads_of_loadSelected_ok (loadSelected_hostWriteInput_same i v s)).1
  case inside => exact step_of_fetch_some hr (List.getElem?_eq_getElem hlt)
  case beyond => exact fetchBeyondProgramFaults _ hr hle

end Sys2Proof.Machine
end
